-- ==== Sys2Proof/Word.lean ====
section
/-! DEFINITION. The word types of PLFC: a byte (00_scope.md R11), the 16-bit and 32-bit words of its registers and of the
command word (10_state.md R17, R20). All values are unsigned. -/

namespace Sys2Proof

/-- An 8-bit byte (R11). -/
abbrev Byte := BitVec 8

/-- A 16-bit value: `CRC16_OUT`, `F_LENGTH`, `F_SEQ`, `F_HCRC` (R17). -/
abbrev Half := BitVec 16

/-- A 32-bit value: `CRC32_OUT`, `F_FCRC` (R17), the command word `CMD` (R20). -/
abbrev Word := BitVec 32

end Sys2Proof
end

