-- ==== Sys2Proof/Config.lean ====
section
/-! DEFINITION. What an implementation of PLFC fixes: the frame constants (00_scope.md R6), the structural sizes (R7), the
two CRC parameter records (R8) with their default instantiation (R9), and the free values that the hidden registers of
10_state.md R22 hold between operations. -/

namespace Sys2Proof

/-- The parameter record of a CRC of width `w` (R8). `w` is 16 for `CRC16P` and 32 for `CRC32P` (R71): the type says so.
`init` is in the MSB-first orientation of R61. -/
structure CrcParams (w : Nat) where
  /-- `POLY`: the generator polynomial without its `x^w` term. -/
  poly : BitVec w
  /-- `INIT`: the initial register value. -/
  init : BitVec w
  /-- `REFIN`: reflect each input byte. -/
  refin : Bool
  /-- `REFOUT`: reflect the final register. -/
  refout : Bool
  /-- `XOROUT`: the value XORed onto the result. -/
  xorout : BitVec w
deriving DecidableEq, Repr

/-- The configuration record: the frame constants of R6 and the CRC parameter records of R8, hardwired and fixed for a whole
run (10_state.md R21). Every definition that needs one of them takes it from here. -/
structure Config where
  /-- `START_MARKER` (R6). -/
  startMarker : Byte
  /-- `PROTOCOL_VERSION` (R6). -/
  protocolVersion : Byte
  /-- `MAX_FRAME_LEN` (R6), in bytes; also the capacity `OBUF_CAP` of the output buffer (R10). -/
  maxFrameLen : Nat
  /-- `FT_CMD` (R6): the frame type "CMD (request)". -/
  ftCmd : Byte
  /-- `FT_AKN` (R6): the frame type "AKN (acknowledgement/response)". -/
  ftAkn : Byte
  /-- `FT_MSG` (R6): the frame type "MSG (unsolicited message)". -/
  ftMsg : Byte
  /-- `CRC16P` (R8). -/
  crc16p : CrcParams 16
  /-- `CRC32P` (R8). -/
  crc32p : CrcParams 32
deriving DecidableEq, Repr

namespace Config

/-- `START_MARKER` as the source states it (R6; log 11). -/
def statedStartMarker : Byte := 0xAA

/-- `PROTOCOL_VERSION` as the source states it (R6; log 11). -/
def statedProtocolVersion : Byte := 0x01

/-- `MAX_FRAME_LEN` as the source states it (R6; log 11). -/
def statedMaxFrameLen : Nat := 1400

/-- `FT_CMD` as the source states it (R6; log 11). -/
def statedFtCmd : Byte := 0

/-- `FT_AKN` as the source states it (R6; log 11). -/
def statedFtAkn : Byte := 1

/-- `FT_MSG` as the source states it (R6; log 11). -/
def statedFtMsg : Byte := 2

/-- `HEADER_LEN` (R7; 90_conflicts.md C1): start, version, length, frame type, sequence. -/
def headerLen : Nat := 7

/-- `HCRC_LEN` (R7). -/
def hcrcLen : Nat := 2

/-- `FCRC_LEN` (R7). -/
def fcrcLen : Nat := 4

/-- `OVERHEAD = HEADER_LEN + HCRC_LEN + FCRC_LEN = 13` (R7). -/
def overhead : Nat := headerLen + hcrcLen + fcrcLen

/-- `MIN_FRAME_LEN = OVERHEAD` (R7): the frame with an empty payload. -/
def minFrameLen : Nat := overhead

/-- PRESUMED (log 1): `CRC16P` of `LIVOX_DEFAULT` (R9, general knowledge by the spec's own mark). -/
def livoxCrc16 : CrcParams 16 :=
  { poly := 0x1021, init := 0x9232, refin := true, refout := true, xorout := 0x0000 }

/-- PRESUMED (log 1): `CRC32P` of `LIVOX_DEFAULT` (R9, general knowledge by the spec's own mark). -/
def livoxCrc32 : CrcParams 32 :=
  { poly := 0x04C11DB7, init := 0xAFE50D95, refin := true, refout := true, xorout := 0xFFFFFFFF }

/-- The frame constants of R6 with the CRC records of `LIVOX_DEFAULT` (R9): the default value of the configuration. -/
def livoxDefault : Config :=
  { startMarker := statedStartMarker, protocolVersion := statedProtocolVersion, maxFrameLen := statedMaxFrameLen,
    ftCmd := statedFtCmd, ftAkn := statedFtAkn, ftMsg := statedFtMsg, crc16p := livoxCrc16, crc32p := livoxCrc32 }

/-- DESIGN CHOICE (log 3): the value `R16` holds after an operation that used it (93_implementation_defined.md U6, "any
value"); a free value, drawn with the counter of `State`. -/
opaque idleR16 : Nat → Half

/-- DESIGN CHOICE (log 3): the value `R32` holds after an operation that used it (U6). -/
opaque idleR32 : Nat → Word

/-- DESIGN CHOICE (log 3): the value `IDX` holds after an operation that used it (U6). -/
opaque idleIdx : Nat → Nat

end Config

end Sys2Proof
end

