-- ==== Sys2Proof/Syntax.lean ====
section
/-! DEFINITION. The syntax of PLFC: the command a client presents (30_encoding.md R47), the operations it selects, one
constructor for each row of the opcode table (R57), and the source's `Frame` record (10_state.md R17). -/

namespace Sys2Proof

/-- What a client presents to start an operation: the command word `CMD` (10_state.md R20) and the input byte sequence
`IN` of any length (R18). -/
structure Command where
  /-- `CMD`. -/
  cmd : Word
  /-- `IN`. -/
  input : List Byte
deriving DecidableEq, Repr

/-- An operation with its operands: one constructor per row of spec/opcode_table.json. The bits `CMD[31:8]` that CRC16,
CRC32 and DECODE ignore (30_encoding.md R48) are no operand. -/
inductive Instr where
  /-- `CRC16 [input]` (40_crc.md R64). -/
  | crc16 (input : List Byte)
  /-- `CRC32 [input]` (R65). -/
  | crc32 (input : List Byte)
  /-- `ENCODE ft, seq, [payload]` (41_frame_encode.md R73). -/
  | encode (ft : Byte) (seq : Half) (payload : List Byte)
  /-- `DECODE [input]` (42_frame_decode.md R80). -/
  | decode (input : List Byte)
  /-- `ENCODE.CMD seq, [payload]` (R79): `FT = FT_CMD`. -/
  | encodeCmd (seq : Half) (payload : List Byte)
  /-- `ENCODE.AKN seq, [payload]` (R79): `FT = FT_AKN`. -/
  | encodeAkn (seq : Half) (payload : List Byte)
  /-- `ENCODE.MSG seq, [payload]` (R79): `FT = FT_MSG`. -/
  | encodeMsg (seq : Half) (payload : List Byte)
  /-- `FRAME.CMD`: a frame of type `FT_CMD` (R42), as the input of a DECODE (log 8). -/
  | frameCmd (length seq hcrc : Half) (payload : List Byte) (fcrc : Word)
  /-- `FRAME.AKN`: a frame of type `FT_AKN` (R42), as the input of a DECODE (log 8). -/
  | frameAkn (length seq hcrc : Half) (payload : List Byte) (fcrc : Word)
  /-- `FRAME.MSG`: a frame of type `FT_MSG` (R42), as the input of a DECODE (log 8). -/
  | frameMsg (length seq hcrc : Half) (payload : List Byte) (fcrc : Word)
deriving DecidableEq, Repr

/-- Why a command selects no operation. -/
inductive DecodeReject where
  /-- `CMD[7:0]` is 0x04 to 0xFF, a reserved opcode (30_encoding.md R50). -/
  | reservedOpcode (op : Byte)
deriving DecidableEq, Repr

/-- The source's `Frame` record (10_state.md R17; 30_encoding.md R43), fields in wire order. -/
structure Frame where
  start : Byte
  protocolVersion : Byte
  length : Half
  frameType : Byte
  sequence : Half
  headerCrc16 : Half
  payload : List Byte
  frameCrc32 : Word
deriving DecidableEq, Repr

end Sys2Proof
end

