-- ==== Sys2Proof/WellFormed.lean ====
section
/-! DEFINITION. Well-formedness: of the configuration (40_crc.md R71; 00_scope.md R6) and of instructions (30_encoding.md
R53, the size of a frame). -/

namespace Sys2Proof

/-- The configuration is admitted: the frame constants are the stated ones (R6; log 11) and `CRC16P.XOROUT` is 0 (R71,
R8). The widths of the two CRC records are in their types. -/
abbrev Config.wf (c : Config) : Prop :=
  c.startMarker = Config.statedStartMarker ∧ c.protocolVersion = Config.statedProtocolVersion ∧
    c.maxFrameLen = Config.statedMaxFrameLen ∧ c.ftCmd = Config.statedFtCmd ∧ c.ftAkn = Config.statedFtAkn ∧
    c.ftMsg = Config.statedFtMsg ∧ c.crc16p.xorout = 0

/-- A frame has at most `MAX_FRAME_LEN` bytes in all (R53: 13 to 1400, so a payload of at most 1387). Every other operand is
admitted at every value of its type: the input of CRC16 and CRC32 is unbounded (10_state.md R18), and a payload or a
datagram of the wrong size is an operand of ENCODE and DECODE, which answer it with an error (41_frame_encode.md R75,
42_frame_decode.md R82). -/
def Instr.wf (k : Config) : Instr → Bool
  | .crc16 _ => true
  | .crc32 _ => true
  | .encode _ _ _ => true
  | .decode _ => true
  | .encodeCmd _ _ => true
  | .encodeAkn _ _ => true
  | .encodeMsg _ _ => true
  | .frameCmd _ _ _ p _ => decide (Config.overhead + p.length ≤ k.maxFrameLen)
  | .frameAkn _ _ _ p _ => decide (Config.overhead + p.length ≤ k.maxFrameLen)
  | .frameMsg _ _ _ p _ => decide (Config.overhead + p.length ≤ k.maxFrameLen)

end Sys2Proof
end

