-- ==== Sys2Proof/Machine/Operands.lean ====
section
/-! DEFINITION. The operand forms of PLFC: byte sequences, their slices and their little-endian assembly (00_scope.md R11,
20_memory.md R28), and the layout of a frame (30_encoding.md R42, R43). Nothing is sign-extended, scaled or shifted. -/

namespace Sys2Proof.Machine

/-- `s[a:b]`: the bytes with indices `a <= i < b` (R11). -/
def slice (s : List Byte) (a b : Nat) : List Byte := (s.drop a).take (b - a)

/-- The little-endian value `s[0] + 256*s[1] + ...` of a byte sequence (R11). -/
def leNat : List Byte → Nat
  | [] => 0
  | b :: s => b.toNat + 256 * leNat s

/-- The `k` low bytes of `v`, least significant first (R11). -/
def leBytes : Nat → Nat → List Byte
  | 0, _ => []
  | k + 1, v => BitVec.ofNat 8 v :: leBytes k (v / 256)

/-- `le16(s)` for a 2-byte `s` (R11). -/
def le16 (s : List Byte) : Half := BitVec.ofNat 16 (leNat s)

/-- `le32(s)` for a 4-byte `s` (R11). -/
def le32 (s : List Byte) : Word := BitVec.ofNat 32 (leNat s)

/-- `bytes16(v) = [v[7:0], v[15:8]]` (R11). -/
def bytes16 (v : Half) : List Byte := [v.extractLsb' 0 8, v.extractLsb' 8 8]

/-- `bytes32(v) = [v[7:0], v[15:8], v[23:16], v[31:24]]` (R11). -/
def bytes32 (v : Word) : List Byte :=
  [v.extractLsb' 0 8, v.extractLsb' 8 8, v.extractLsb' 16 8, v.extractLsb' 24 8]

/-- `MemRead(IN:i, k)`: the `k`-byte little-endian value at offset `i`, defined only when `i + k <= len(IN)` (R11). -/
def memRead (input : List Byte) (i k : Nat) : Option Nat :=
  if i + k ≤ input.length then some (leNat (slice input i (i + k))) else none

/-- The 7 header bytes of a frame in wire order (R42, R43). -/
def headerBytes (start version : Byte) (length : Half) (ft : Byte) (seq : Half) : List Byte :=
  [start, version] ++ bytes16 length ++ [ft] ++ bytes16 seq

/-- A whole frame in wire order (R42): header, header CRC, payload, frame CRC. -/
def frameBytes (f : Frame) : List Byte :=
  headerBytes f.start f.protocolVersion f.length f.frameType f.sequence ++ bytes16 f.headerCrc16 ++ f.payload ++
    bytes32 f.frameCrc32

/-- The fields of an input of at least 13 bytes (R43; 42_frame_decode.md R81): positions counted from its two ends; the
`length` field plays no part. -/
def frameFields (input : List Byte) : Frame :=
  let n := input.length
  { start := input.getD 0 0
    protocolVersion := input.getD 1 0
    length := le16 (slice input 2 4)
    frameType := input.getD 4 0
    sequence := le16 (slice input 5 7)
    headerCrc16 := le16 (slice input 7 9)
    payload := slice input 9 (n - 4)
    frameCrc32 := le32 (slice input (n - 4) n) }

end Sys2Proof.Machine
end

