-- ==== Sys2Proof/Decode.lean ====
section
/-! DEFINITION. From a command word and its input bytes to an instruction (30_encoding.md R47, R48, R50, R57), and back.
Decoding is total and rejects a reserved opcode by name. Where two rows of the opcode table match (ENCODE and one of its
aliases, DECODE and a frame row), the row that fixes more bits is read (log 7, log 8). -/

namespace Sys2Proof

open Sys2Proof.Machine

/-- `OP = CMD[7:0]` (R47). -/
def Command.op (c : Command) : Byte := c.cmd.extractLsb' 0 8

/-- `FT = CMD[15:8]` (R47), used by ENCODE only. -/
def Command.ft (c : Command) : Byte := c.cmd.extractLsb' 8 8

/-- `SEQ = CMD[31:16]` (R47), used by ENCODE only. -/
def Command.seq (c : Command) : Half := c.cmd.extractLsb' 16 16

/-- An ENCODE with these operands, spelled as the alias whose row fixes its frame type, where one does (R55; log 7). -/
def encodeForm (k : Config) (ft : Byte) (seq : Half) (payload : List Byte) : Instr :=
  if ft = k.ftCmd then .encodeCmd seq payload
  else if ft = k.ftAkn then .encodeAkn seq payload
  else if ft = k.ftMsg then .encodeMsg seq payload
  else .encode ft seq payload

/-- The input has the size of a frame (R53) and starts with the two marker bytes of the frame rows (R57). -/
def hasFrameHeader (k : Config) (input : List Byte) : Bool :=
  decide (Config.minFrameLen ≤ input.length) && decide (input.length ≤ k.maxFrameLen) &&
    decide ((frameFields input).start = k.startMarker) &&
    decide ((frameFields input).protocolVersion = k.protocolVersion)

/-- A DECODE of this input, spelled as the frame row that its first bytes match, where one does (R57; log 8). -/
def decodeForm (k : Config) (input : List Byte) : Instr :=
  let f := frameFields input
  if hasFrameHeader k input then
    if f.frameType = k.ftCmd then .frameCmd f.length f.sequence f.headerCrc16 f.payload f.frameCrc32
    else if f.frameType = k.ftAkn then .frameAkn f.length f.sequence f.headerCrc16 f.payload f.frameCrc32
    else if f.frameType = k.ftMsg then .frameMsg f.length f.sequence f.headerCrc16 f.payload f.frameCrc32
    else .decode input
  else .decode input

/-- The instruction a command selects, by `OP` alone (R48); a reserved opcode selects none (R50). The frame constants of the
configuration (00_scope.md R6) decide only which of two matching rows is answered (log 7, log 8). -/
def decode (k : Config) (c : Command) : Except DecodeReject Instr :=
  if c.op = 0x00 then .ok (.crc16 c.input)
  else if c.op = 0x01 then .ok (.crc32 c.input)
  else if c.op = 0x02 then .ok (encodeForm k c.ft c.seq c.input)
  else if c.op = 0x03 then .ok (decodeForm k c.input)
  else .error (.reservedOpcode c.op)

/-- The wire bytes of a frame of this type with the configured marker bytes (R42; 00_scope.md R6). -/
def typedFrameBytes (k : Config) (ft : Byte) (length seq hcrc : Half) (payload : List Byte) (fcrc : Word) : List Byte :=
  frameBytes { start := k.startMarker, protocolVersion := k.protocolVersion, length := length, frameType := ft,
               sequence := seq, headerCrc16 := hcrc, payload := payload, frameCrc32 := fcrc }

/-- `CMD` from its three fields (R47). -/
def commandWord (op ft : Byte) (seq : Half) : Word := seq ++ ft ++ op

/-- The command of an instruction: its canonical command word (R54) and its input bytes. -/
def encode (k : Config) : Instr → Command
  | .crc16 input => ⟨commandWord 0x00 0 0, input⟩
  | .crc32 input => ⟨commandWord 0x01 0 0, input⟩
  | .encode ft seq payload => ⟨commandWord 0x02 ft seq, payload⟩
  | .decode input => ⟨commandWord 0x03 0 0, input⟩
  | .encodeCmd seq payload => ⟨commandWord 0x02 k.ftCmd seq, payload⟩
  | .encodeAkn seq payload => ⟨commandWord 0x02 k.ftAkn seq, payload⟩
  | .encodeMsg seq payload => ⟨commandWord 0x02 k.ftMsg seq, payload⟩
  | .frameCmd length seq hcrc payload fcrc =>
      ⟨commandWord 0x03 0 0, typedFrameBytes k k.ftCmd length seq hcrc payload fcrc⟩
  | .frameAkn length seq hcrc payload fcrc =>
      ⟨commandWord 0x03 0 0, typedFrameBytes k k.ftAkn length seq hcrc payload fcrc⟩
  | .frameMsg length seq hcrc payload fcrc =>
      ⟨commandWord 0x03 0 0, typedFrameBytes k k.ftMsg length seq hcrc payload fcrc⟩

/-- The spelling the decoder answers: an ENCODE of a defined frame type as its alias, a DECODE of a typed frame as that
frame's row; every other instruction as it is (log 7, log 8). -/
def Instr.canonical (k : Config) : Instr → Instr
  | .encode ft seq payload => encodeForm k ft seq payload
  | .decode input => decodeForm k input
  | .crc16 input => .crc16 input
  | .crc32 input => .crc32 input
  | .encodeCmd seq payload => .encodeCmd seq payload
  | .encodeAkn seq payload => .encodeAkn seq payload
  | .encodeMsg seq payload => .encodeMsg seq payload
  | .frameCmd length seq hcrc payload fcrc => .frameCmd length seq hcrc payload fcrc
  | .frameAkn length seq hcrc payload fcrc => .frameAkn length seq hcrc payload fcrc
  | .frameMsg length seq hcrc payload fcrc => .frameMsg length seq hcrc payload fcrc

/-- The columns match and mask of an instruction's row on the command word (R48, R57); an alias fixes its frame type too
(R79). A frame row has none of its own: a frame is the input of a DECODE, whose columns stand for it (log 8). -/
def Instr.commandRow (k : Config) : Instr → Word × Word
  | .crc16 _ => (0x00000000, 0x000000FF)
  | .crc32 _ => (0x00000001, 0x000000FF)
  | .encode _ _ _ => (0x00000002, 0x000000FF)
  | .decode _ => (0x00000003, 0x000000FF)
  | .encodeCmd _ _ => (commandWord 0x02 k.ftCmd 0, 0x0000FFFF)
  | .encodeAkn _ _ => (commandWord 0x02 k.ftAkn 0, 0x0000FFFF)
  | .encodeMsg _ _ => (commandWord 0x02 k.ftMsg 0, 0x0000FFFF)
  | .frameCmd _ _ _ _ _ => (0x00000003, 0x000000FF)
  | .frameAkn _ _ _ _ _ => (0x00000003, 0x000000FF)
  | .frameMsg _ _ _ _ _ => (0x00000003, 0x000000FF)

/-- The columns match and mask of the frame row of this type, byte by byte in wire order (R57): start, version and frame type
are fixed. -/
def frameColumns (k : Config) (ft : Byte) : List Byte × List Byte :=
  ([k.startMarker, k.protocolVersion, 0, 0, ft, 0, 0, 0, 0], [0xFF, 0xFF, 0, 0, 0xFF, 0, 0, 0, 0])

/-- The columns match and mask of a frame row (R57); the other rows have none. -/
def Instr.frameRow (k : Config) : Instr → List Byte × List Byte
  | .frameCmd _ _ _ _ _ => frameColumns k k.ftCmd
  | .frameAkn _ _ _ _ _ => frameColumns k k.ftAkn
  | .frameMsg _ _ _ _ _ => frameColumns k k.ftMsg
  | .crc16 _ => ([], [])
  | .crc32 _ => ([], [])
  | .encode _ _ _ => ([], [])
  | .decode _ => ([], [])
  | .encodeCmd _ _ => ([], [])
  | .encodeAkn _ _ => ([], [])
  | .encodeMsg _ _ => ([], [])

/-- The command that an opcode-table word stands for. A word of at most 32 bits is a command word, presented with an empty
input. A longer one is the start of a frame, byte `k` in bits `8k+7` to `8k`, presented as the input of a DECODE; the
bytes the table gives no bits are zero: an empty payload and a frame CRC of four zero bytes (log 9). -/
def tableCommand (nbits w : Nat) : Command :=
  if nbits ≤ 32 then ⟨BitVec.ofNat 32 w, []⟩
  else ⟨commandWord 0x03 0 0, leBytes (max 9 ((nbits + 7) / 8)) w ++ [0, 0, 0, 0]⟩

/-- The instruction the decoder reads from an opcode-table word, under the stated frame constants, which are the table's
(00_scope.md R6; log 9). -/
def decodeTableWord (nbits w : Nat) : Option Instr := (decode Config.livoxDefault (tableCommand nbits w)).toOption

end Sys2Proof
end

