-- ==== Sys2Proof/Machine/State.lean ====
section
/-! DEFINITION. The state of PLFC (10_state.md R14 to R24) with its client (70_reset_and_hazards.md R117, R118), the errors
of an operation (60_exceptions.md R93), the reasons a step can stop, and the state after reset (R24, R109). -/

namespace Sys2Proof.Machine

/-- The errors of an operation, one for each row of R93 but `OK`: the name with its sub-code. No other error exists
(R103; 93_implementation_defined.md U11). An error is an ordinary outcome, reported in `STATUS`, never a machine fault. -/
inductive OpError where
  /-- `FrameTooLarge(0)`: ENCODE's total length (R75) or DECODE's input (R82) is over `MAX_FRAME_LEN`. -/
  | frameTooLargeSize
  /-- `FrameTooLarge(1)`: DECODE's `length` field is over `MAX_FRAME_LEN` (R87). -/
  | frameTooLargeField
  /-- `BadMarker(0)`: the start byte is wrong (R86). -/
  | badMarkerStart
  /-- `BadMarker(1)`: the start byte is right and the version byte is wrong (R86). -/
  | badMarkerVersion
  /-- `CrcMismatch(0)`: the header CRC is wrong (R84). -/
  | crcMismatchHeader
  /-- `CrcMismatch(1)`: the header CRC is right and the frame CRC is wrong (R85). -/
  | crcMismatchFrame
  /-- `FrameTooShort(0)`: DECODE's input has fewer than 13 bytes (R83). -/
  | frameTooShort
  /-- `IllegalOp(0)`: a reserved opcode (R99). -/
  | illegalOp
deriving DecidableEq, Repr

/-- The registers a client can read (R16, R17, R19; R118): `STATUS`, the result registers and `OLEN`. -/
inductive Reg where
  | status | crc16Out | crc32Out | fStart | fVersion | fLength | fType | fSeq | fHcrc | fFcrc | olen
deriving DecidableEq, Repr

/-- The client's moves, one for each row of R118's table that the client can make. A register write is no move (R14). -/
inductive ClientMove where
  /-- Reset the block (R109). -/
  | reset
  /-- Issue an operation: a command word with its input bytes. -/
  | issue (c : Command)
  /-- Read `STATUS`, a result register or `OLEN`. -/
  | readReg (r : Reg)
  /-- Read `OBUF[i]`. -/
  | readObuf (i : Nat)
deriving DecidableEq, Repr

/-- The bytes of `OBUF` that hold a value (10_state.md R19): index and byte, in the canonical form of `Memory.wf`. -/
abbrev Memory := List Host.Cell

/-- What an unlisted byte of `OBUF` reads as: no value (R26; 93_implementation_defined.md U5; log 10). -/
def Memory.unlisted : Option Byte := none

/-- The canonical form of a memory: indices strictly rising. No entry can equal what an unlisted byte reads as, because
that is no value. -/
abbrev Memory.wf (m : Memory) : Prop := (m.map Prod.fst).Pairwise (· < ·)

/-- The machine: the block's registers, its hidden registers, its constants, and the client's side of the interface. -/
structure State where
  /-- The constants of R21, fixed for a whole run. -/
  cfg : Config
  /-- `STATUS` (R16): `ERR` in bits 3..0, `SUB` in bits 5..4, bits 7..6 always 0. -/
  status : Byte
  /-- `CRC16_OUT` (R17). -/
  crc16Out : Half
  /-- `CRC32_OUT` (R17). -/
  crc32Out : Word
  /-- `F_START` (R17). -/
  fStart : Byte
  /-- `F_VERSION` (R17). -/
  fVersion : Byte
  /-- `F_LENGTH` (R17). -/
  fLength : Half
  /-- `F_TYPE` (R17). -/
  fType : Byte
  /-- `F_SEQ` (R17). -/
  fSeq : Half
  /-- `F_HCRC` (R17). -/
  fHcrc : Half
  /-- `F_FCRC` (R17). -/
  fFcrc : Word
  /-- `OLEN` (R19): how many bytes of `OBUF` are valid. -/
  olen : BitVec 11
  /-- `OBUF` (R19): its valid bytes; a byte at or above `OLEN` has no value (R26). -/
  obuf : Memory
  /-- `R16`, hidden (R22): a free value between operations (log 3). -/
  r16 : Half
  /-- `R32`, hidden (R22): a free value between operations (log 3). -/
  r32 : Word
  /-- `IDX`, hidden (R22): a free value between operations (log 3). -/
  idx : Nat
  /-- The model's own: how many free values have been drawn (log 3). -/
  freeCount : Nat
  /-- The model's own: the client's moves still to come, in order (R117; log 5). -/
  pending : List ClientMove
  /-- The model's own: what the client's reads got back, newest first (R118; log 6). -/
  received : List Word
deriving DecidableEq, Repr

/-- Why the machine stops with a fault. -/
inductive Fault where
  /-- Raised by the client's read of `OBUF[i]` when `i < OLEN` and `OBUF` lists no byte `i`. No run reaches such a state:
  the invariant `Safety.Inv` rules it out. Safe (log 10). -/
  | obufByteAbsent (i : Nat)
deriving DecidableEq, Repr

/-- Why a move has no meaning. -/
inductive Refusal where
  /-- An instruction without a meaning in `exec`; no arm raises it. Safe. -/
  | notModelled (mnemonic : String)
  /-- Raised by the client's read of `OBUF[i]` with `i >= OLEN`, which R19 and R118 refuse. Safe (log 10). -/
  | obufUnreadable (i : Nat)
deriving DecidableEq, Repr

/-- The state after reset (R24, R109): every register zero, `OBUF` unreadable. DESIGN CHOICE (log 4): the hidden
registers, whose reset value R24 leaves unspecified, are zero. PRESUMED (log 1): the CRC records are those of
`LIVOX_DEFAULT`. Nothing is pending and nothing was read (log 5, log 6). -/
def State.reset : State :=
  { cfg := Config.livoxDefault
    status := 0, crc16Out := 0, crc32Out := 0
    fStart := 0, fVersion := 0, fLength := 0, fType := 0, fSeq := 0, fHcrc := 0, fFcrc := 0
    olen := 0, obuf := []
    r16 := 0, r32 := 0, idx := 0
    freeCount := 0, pending := [], received := [] }

end Sys2Proof.Machine
end

