-- ==== Sys2Proof/Machine/Flags.lean ====
section
/-! DEFINITION. The status register, PLFC's only flag-like state (10_state.md R16): its fields, and the value each outcome of
an operation writes (60_exceptions.md R93). -/

namespace Sys2Proof.Machine

/-- `STATUS.ERR`, bits 3..0 (R16). -/
def statusErr (status : Byte) : BitVec 4 := status.extractLsb' 0 4

/-- `STATUS.SUB`, bits 5..4 (R16). -/
def statusSub (status : Byte) : BitVec 2 := status.extractLsb' 4 2

/-- The code of an error (R93, column `ERR`). -/
def errCode : OpError → BitVec 4
  | .frameTooLargeSize => 1
  | .frameTooLargeField => 1
  | .badMarkerStart => 2
  | .badMarkerVersion => 2
  | .crcMismatchHeader => 3
  | .crcMismatchFrame => 3
  | .frameTooShort => 4
  | .illegalOp => 5

/-- The sub-code of an error (R93, column `SUB`). -/
def errSub : OpError → BitVec 2
  | .frameTooLargeSize => 0
  | .frameTooLargeField => 1
  | .badMarkerStart => 0
  | .badMarkerVersion => 1
  | .crcMismatchHeader => 0
  | .crcMismatchFrame => 1
  | .frameTooShort => 0
  | .illegalOp => 0

/-- `STATUS` from its fields; bits 7..6 are 0 (R16, R97). -/
def statusOf (err : BitVec 4) (sub : BitVec 2) : Byte := (0 : BitVec 2) ++ sub ++ err

/-- `STATUS` after a success: `ERR = OK`, `SUB = 0` (R93). -/
def statusOk : Byte := statusOf 0 0

/-- `STATUS` after an error (R97). -/
def errStatus (e : OpError) : Byte := statusOf (errCode e) (errSub e)

end Sys2Proof.Machine
end

