-- ==== Sys2Proof/Machine/Ops.lean ====
section
/-! DEFINITION. The named operations over `OBUF` and the registers: reading and writing bytes, raising an error (PLFC's one
way of "taking an exception", 60_exceptions.md R97; nothing is saved, so no return from it exists, R102), the writes a
success makes (10_state.md R25), the hidden registers (R22), and reset (R109). -/

namespace Sys2Proof.Machine

/-- The byte at index `a`, if it holds a value. -/
def Memory.read (m : Memory) (a : Nat) : Option Byte :=
  match m with
  | [] => Memory.unlisted
  | (x, b) :: rest => if a = x then some b else Memory.read rest a

/-- Write the byte at index `a`, keeping the canonical form. -/
def Memory.write (m : Memory) (a : Nat) (b : Byte) : Memory :=
  match m with
  | [] => [(a, b)]
  | (x, c) :: rest =>
    if a < x then (a, b) :: (x, c) :: rest
    else if a = x then (a, b) :: rest
    else (x, c) :: Memory.write rest a b

/-- Write a byte sequence from index `a` on. -/
def Memory.writeBytes (m : Memory) (a : Nat) (bytes : List Byte) : Memory :=
  match bytes with
  | [] => m
  | b :: bs => (Memory.writeBytes m (a + 1) bs).write a b

/-- `MemWrite(OBUF:i, k, v)`: the `k` low bytes of `v`, least significant first (00_scope.md R11). -/
def Memory.memWrite (m : Memory) (i k v : Nat) : Memory := m.writeBytes i (leBytes k v)

/-- The bytes of indices 0 to `n - 1` that hold a value, in index order. -/
def Memory.bytes (m : Memory) (n : Nat) : List Byte := (List.range n).filterMap m.read

/-- `OBUF[0:OLEN]` (R19). -/
def State.output (s : State) : List Byte := s.obuf.bytes s.olen.toNat

/-- `OBUF[0:L] <- bytes`, `OLEN <- L` for `L = len(bytes)` (R25). The bytes at `L` and above become unspecified (R26):
they keep no value (log 10). -/
def State.storeOutput (bytes : List Byte) (s : State) : State :=
  { s with obuf := Memory.writeBytes [] 0 bytes, olen := BitVec.ofNat 11 bytes.length }

/-- The `F_*` registers of a frame (R17, R25; 42_frame_decode.md R89). -/
def State.storeFrame (f : Frame) (s : State) : State :=
  { s with fStart := f.start, fVersion := f.protocolVersion, fLength := f.length, fType := f.frameType,
           fSeq := f.sequence, fHcrc := f.headerCrc16, fFcrc := f.frameCrc32 }

/-- `STATUS <- v` (R16). -/
def State.setStatus (v : Byte) (s : State) : State := { s with status := v }

/-- `CRC16_OUT <- v` (R17). -/
def State.setCrc16Out (v : Half) (s : State) : State := { s with crc16Out := v }

/-- `CRC32_OUT <- v` (R17). -/
def State.setCrc32Out (v : Word) (s : State) : State := { s with crc32Out := v }

/-- The 16-bit engine ran: `R16` and `IDX` hold free values from now on (R22, U6; log 3). -/
def State.usedCrc16 (s : State) : State :=
  { s with r16 := Config.idleR16 s.freeCount, idx := Config.idleIdx s.freeCount, freeCount := s.freeCount + 1 }

/-- The 32-bit engine ran: `R32` and `IDX` hold free values from now on (R22, U6; log 3). -/
def State.usedCrc32 (s : State) : State :=
  { s with r32 := Config.idleR32 s.freeCount, idx := Config.idleIdx s.freeCount, freeCount := s.freeCount + 1 }

/-- An operation completes successfully with these register contents: `STATUS <- 0x00` (R25). -/
def succeed (s : State) : Host.Outcome State Fault Refusal := .next (s.setStatus statusOk)

/-- `raise E(sub)` (R97): it ends the operation, writes `STATUS` and nothing else; the block is ready for the next
command. -/
def raise (e : OpError) (s : State) : Host.Outcome State Fault Refusal := .next (s.setStatus (errStatus e))

/-- Reset (R109): every register as in `State.reset`; the constants stay (R24), and so do the model's own fields, the
client's and the free counter (log 12). -/
def State.resetBlock (s : State) : State :=
  { State.reset with cfg := s.cfg, freeCount := s.freeCount, pending := s.pending, received := s.received }

/-- The value of a register a client reads, with zero bits on top (R11; R118). -/
def State.readReg (r : Reg) (s : State) : Word :=
  match r with
  | .status => s.status.setWidth 32
  | .crc16Out => s.crc16Out.setWidth 32
  | .crc32Out => s.crc32Out
  | .fStart => s.fStart.setWidth 32
  | .fVersion => s.fVersion.setWidth 32
  | .fLength => s.fLength.setWidth 32
  | .fType => s.fType.setWidth 32
  | .fSeq => s.fSeq.setWidth 32
  | .fHcrc => s.fHcrc.setWidth 32
  | .fFcrc => s.fFcrc
  | .olen => s.olen.setWidth 32

/-- The client gets a value back (R118; log 6); the block does not change (20_memory.md R34). -/
def State.give (v : Word) (s : State) : State := { s with received := v :: s.received }

/-- The client reads `OBUF[i]`: the byte when `i < OLEN`, refused otherwise (R19, R118). -/
def clientReadObuf (i : Nat) (s : State) : Host.Outcome State Fault Refusal :=
  if i < s.olen.toNat then
    match s.obuf.read i with
    | some b => .next (s.give (b.setWidth 32))
    | none => .fault (.obufByteAbsent i)
  else .refused (.obufUnreadable i)

end Sys2Proof.Machine
end

