-- ==== Sys2Proof/Machine/CrcEngine.lean ====
section
/-! DEFINITION. The CRC engine (40_crc.md): the parametrised algorithm of R61 (general knowledge by the spec's own mark, log
2), the two functions `crc16` and `crc32` (R62), which ENCODE and DECODE also call (R70), and the operations CRC16 (R64)
and CRC32 (R65). -/

namespace Sys2Proof.Machine

/-- `reflect_w(v)`: bit `i` is bit `w-1-i` of `v` (00_scope.md R11). -/
def reflect {w : Nat} (v : BitVec w) : BitVec w := v.reverse

/-- One round of R61's inner loop: shift left, drop the bit that leaves, and XOR the polynomial if it was 1. -/
def crcBit {w : Nat} (p : CrcParams w) (reg : BitVec w) : BitVec w :=
  let shifted := reg <<< 1
  if reg.msb then shifted ^^^ p.poly else shifted

/-- `step(P, reg, b)` of R61: the byte, reflected if `REFIN`, enters the top 8 bits; then 8 rounds. -/
def crcByte {w : Nat} (p : CrcParams w) (reg : BitVec w) (b : Byte) : BitVec w :=
  let b := if p.refin then reflect b else b
  (crcBit p)^[8] (reg ^^^ (b.setWidth w <<< (w - 8)))

/-- `run(P, reg, data)` (R67): the register after R61's loop over the bytes in index order. While it runs, `reg` is the
hidden register `R16` or `R32` and the position in `data` is `IDX` (10_state.md R22). -/
def crcRun {w : Nat} (p : CrcParams w) (reg : BitVec w) (data : List Byte) : BitVec w := data.foldl (crcByte p) reg

/-- The last two lines of R61: reflect the register if `REFOUT`, and XOR `XOROUT`. -/
def crcFinish {w : Nat} (p : CrcParams w) (reg : BitVec w) : BitVec w :=
  (if p.refout then reflect reg else reg) ^^^ p.xorout

/-- `crc(P, data)` (R61). -/
def crc {w : Nat} (p : CrcParams w) (data : List Byte) : BitVec w := crcFinish p (crcRun p p.init data)

/-- `crc16(data)` (R62). -/
def crc16 (c : Config) (data : List Byte) : Half := crc c.crc16p data

/-- `crc32(data)` (R62). -/
def crc32 (c : Config) (data : List Byte) : Word := crc c.crc32p data

/-- One round of R63's inner loop, the LSB-first form; `polyr` is the reflected polynomial. -/
def crcBitLsb {w : Nat} (polyr reg : BitVec w) : BitVec w :=
  let shifted := reg >>> 1
  if reg.getLsbD 0 then shifted ^^^ polyr else shifted

/-- One byte of R63's loop: it enters the low 8 bits unreflected. -/
def crcByteLsb {w : Nat} (p : CrcParams w) (reg : BitVec w) (b : Byte) : BitVec w :=
  (crcBitLsb (reflect p.poly))^[8] (reg ^^^ b.setWidth w)

/-- The register after R63's loop. -/
def crcRunLsb {w : Nat} (p : CrcParams w) (reg : BitVec w) (data : List Byte) : BitVec w :=
  data.foldl (crcByteLsb p) reg

/-- `crc_lsb(P, data)` (R63), which gives the same value when `REFIN = REFOUT = 1`. No operation calls it. -/
def crcLsb {w : Nat} (p : CrcParams w) (data : List Byte) : BitVec w :=
  crcRunLsb p (reflect p.init) data ^^^ p.xorout

/-- CRC16 (R64): it cannot fail. -/
def execCrc16 (input : List Byte) (s : State) : Host.Outcome State Fault Refusal :=
  succeed (s.usedCrc16.setCrc16Out (crc16 s.cfg input))

/-- CRC32 (R65): it cannot fail. -/
def execCrc32 (input : List Byte) (s : State) : Host.Outcome State Fault Refusal :=
  succeed (s.usedCrc32.setCrc32Out (crc32 s.cfg input))

end Sys2Proof.Machine
end

