-- ==== Sys2Proof/Machine/Deserializer.lean ====
section
/-! DEFINITION. The frame deserializer (42_frame_decode.md): the pure function (10_state.md R27), the operation DECODE (R80),
and the frames of the opcode table, which the block consumes by a DECODE (30_encoding.md R42, R57; log 8). -/

namespace Sys2Proof.Machine

/-- The checks DECODE makes on an input of legal size, in order (R84 to R87; 60_exceptions.md R100): header CRC, frame
CRC, start byte, version byte, `length` field. The `length` field is not compared with the input's size (R88), and
neither the frame type nor the payload is inspected (30_encoding.md R51, R46). -/
def checkFrame (c : Config) (input : List Byte) (f : Frame) : Except OpError Frame :=
  if crc16 c (slice input 0 7) ≠ f.headerCrc16 then .error .crcMismatchHeader
  else if crc32 c (slice input 0 (input.length - 4)) ≠ f.frameCrc32 then .error .crcMismatchFrame
  else if f.start ≠ c.startMarker then .error .badMarkerStart
  else if f.protocolVersion ≠ c.protocolVersion then .error .badMarkerVersion
  else if c.maxFrameLen < f.length.toNat then .error .frameTooLargeField
  else .ok f

/-- `decode(bytes)` (R80): the two size checks (R82, R83), the slices (R81), the other checks. -/
def deserialize (c : Config) (input : List Byte) : Except OpError Frame :=
  if c.maxFrameLen < input.length then .error .frameTooLargeSize
  else if input.length < Config.minFrameLen then .error .frameTooShort
  else checkFrame c input (frameFields input)

/-- The operation DECODE and its write set (R89; 10_state.md R25): all of the frame, or `STATUS` alone (R92). It uses both
CRC engines (R22). -/
def runDecode (input : List Byte) (s : State) : Host.Outcome State Fault Refusal :=
  match deserialize s.cfg input with
  | .error e => raise e s.usedCrc16.usedCrc32
  | .ok f => succeed ((s.usedCrc16.usedCrc32.storeFrame f).storeOutput f.payload)

/-- DECODE (R80). -/
def execDecode (input : List Byte) (s : State) : Host.Outcome State Fault Refusal := runDecode input s

/-- FRAME.CMD: DECODE of a frame of type `FT_CMD` (log 8). -/
def execFrameCmd (length seq hcrc : Half) (payload : List Byte) (fcrc : Word) (s : State) :
    Host.Outcome State Fault Refusal :=
  runDecode (typedFrameBytes s.cfg s.cfg.ftCmd length seq hcrc payload fcrc) s

/-- FRAME.AKN: DECODE of a frame of type `FT_AKN` (log 8). -/
def execFrameAkn (length seq hcrc : Half) (payload : List Byte) (fcrc : Word) (s : State) :
    Host.Outcome State Fault Refusal :=
  runDecode (typedFrameBytes s.cfg s.cfg.ftAkn length seq hcrc payload fcrc) s

/-- FRAME.MSG: DECODE of a frame of type `FT_MSG` (log 8). -/
def execFrameMsg (length seq hcrc : Half) (payload : List Byte) (fcrc : Word) (s : State) :
    Host.Outcome State Fault Refusal :=
  runDecode (typedFrameBytes s.cfg s.cfg.ftMsg length seq hcrc payload fcrc) s

end Sys2Proof.Machine
end

