-- ==== Sys2Proof/Machine/Serializer.lean ====
section
/-! DEFINITION. The frame serializer (41_frame_encode.md): the pure function (10_state.md R27) and the operation ENCODE (R73)
with its aliases ENCODE.CMD, ENCODE.AKN and ENCODE.MSG (R79). -/

namespace Sys2Proof.Machine

/-- The first 7 bytes ENCODE emits for a frame of `len` bytes in all (R73, `hdr`). -/
def encodeHeader (c : Config) (ft : Byte) (seq : Half) (len : Nat) : List Byte :=
  headerBytes c.startMarker c.protocolVersion (BitVec.ofNat 16 len) ft seq

/-- Everything before the frame CRC (R73, `pre`): header, header CRC, payload. -/
def encodePrefix (c : Config) (ft : Byte) (seq : Half) (payload : List Byte) : List Byte :=
  let hdr := encodeHeader c ft seq (Config.overhead + payload.length)
  hdr ++ bytes16 (crc16 c hdr) ++ payload

/-- `encode(header-fields, payload)` (R73): the length check on the natural number (R75, 30_encoding.md R56), then the
frame. The payload is copied, never inspected (R46, R74). -/
def serialize (c : Config) (ft : Byte) (seq : Half) (payload : List Byte) : Except OpError (List Byte) :=
  if c.maxFrameLen < Config.overhead + payload.length then .error .frameTooLargeSize
  else
    let pre := encodePrefix c ft seq payload
    .ok (pre ++ bytes32 (crc32 c pre))

/-- The operation ENCODE and its write set (R73, R76). It uses both CRC engines (10_state.md R22). -/
def runEncode (ft : Byte) (seq : Half) (payload : List Byte) (s : State) : Host.Outcome State Fault Refusal :=
  match serialize s.cfg ft seq payload with
  | .error e => raise e s.usedCrc16.usedCrc32
  | .ok frame => succeed (s.usedCrc16.usedCrc32.storeOutput frame)

/-- ENCODE (R73). -/
def execEncode (ft : Byte) (seq : Half) (payload : List Byte) (s : State) : Host.Outcome State Fault Refusal :=
  runEncode ft seq payload s

/-- ENCODE.CMD (R79): `FT = FT_CMD`, which is 0 (00_scope.md R6). -/
def execEncodeCmd (seq : Half) (payload : List Byte) (s : State) : Host.Outcome State Fault Refusal :=
  runEncode s.cfg.ftCmd seq payload s

/-- ENCODE.AKN (R79): `FT = FT_AKN`, which is 1 (R6). -/
def execEncodeAkn (seq : Half) (payload : List Byte) (s : State) : Host.Outcome State Fault Refusal :=
  runEncode s.cfg.ftAkn seq payload s

/-- ENCODE.MSG (R79): `FT = FT_MSG`, which is 2 (R6). -/
def execEncodeMsg (seq : Half) (payload : List Byte) (s : State) : Host.Outcome State Fault Refusal :=
  runEncode s.cfg.ftMsg seq payload s

end Sys2Proof.Machine
end

