-- ==== Sys2Proof/Machine/Dispatch.lean ====
section
/-! DEFINITION. The meaning of every instruction: one arm per row of the opcode table (30_encoding.md R47, R55, R57). -/

namespace Sys2Proof.Machine

def exec (i : Instr) (s : State) : Host.Outcome State Fault Refusal :=
  match i with
  | .crc16 input => Sys2Proof.Machine.execCrc16 input s
  | .crc32 input => Sys2Proof.Machine.execCrc32 input s
  | .encode ft seq payload => Sys2Proof.Machine.execEncode ft seq payload s
  | .decode input => Sys2Proof.Machine.execDecode input s
  | .encodeCmd seq payload => Sys2Proof.Machine.execEncodeCmd seq payload s
  | .encodeAkn seq payload => Sys2Proof.Machine.execEncodeAkn seq payload s
  | .encodeMsg seq payload => Sys2Proof.Machine.execEncodeMsg seq payload s
  | .frameCmd length seq hcrc payload fcrc => Sys2Proof.Machine.execFrameCmd length seq hcrc payload fcrc s
  | .frameAkn length seq hcrc payload fcrc => Sys2Proof.Machine.execFrameAkn length seq hcrc payload fcrc s
  | .frameMsg length seq hcrc payload fcrc => Sys2Proof.Machine.execFrameMsg length seq hcrc payload fcrc s

end Sys2Proof.Machine
end

