-- ==== Sys2Proof/Machine/Client.lean ====
section
/-! DEFINITION. What the block does at each move of its client (70_reset_and_hazards.md R118). -/

namespace Sys2Proof.Machine

/-- The client issues a command (R118): the instruction it selects runs; a reserved opcode completes at once with
`IllegalOp(0)`, its input not read and nothing else changed (60_exceptions.md R99, 30_encoding.md R50). -/
def issue (c : Command) (s : State) : Host.Outcome State Fault Refusal :=
  match decode s.cfg c with
  | .ok i => exec i s
  | .error (.reservedOpcode _) => raise .illegalOp s

/-- One move of the client (R118): reset, an operation, a register read, a read of `OBUF`. -/
def clientMove (m : ClientMove) (s : State) : Host.Outcome State Fault Refusal :=
  match m with
  | .reset => .next s.resetBlock
  | .issue c => issue c s
  | .readReg r => .next (s.give (s.readReg r))
  | .readObuf i => clientReadObuf i s

/-- The client makes its next move (R37, R117: in order, one at a time, each atomic). With none left the run has ended
and the block is idle: it never acts on its own (R118; log 5). -/
def clientStep (s : State) : Host.Outcome State Fault Refusal :=
  match s.pending with
  | [] => .next s
  | m :: rest => clientMove m { s with pending := rest }

/-- The client's next move is to issue the command of this opcode-table word (log 5). -/
def State.queueTableWord (s : State) (nbits w : Nat) : State :=
  { s with pending := .issue (tableCommand nbits w) :: s.pending }

end Sys2Proof.Machine
end

