-- ==== Sys2Proof/Machine/Step.lean ====
section
/-! DEFINITION. One step of the machine: the client's next move, performed by the block (70_reset_and_hazards.md R117,
R118); and the placing of one instruction as that next move. -/

namespace Sys2Proof.Machine

/-- One step (R33, R117). -/
def step (s : State) : Host.Outcome State Fault Refusal := clientStep s

/-- `s` with the instruction of an opcode-table word as the client's next move, so that the next step runs it. PLFC has no
program counter and fetches nothing (10_state.md R15): its client presents one operation at a time (log 5). -/
def State.withFetchWord (s : State) (nbits w : Nat) : State := s.queueTableWord nbits w

end Sys2Proof.Machine
end

