-- ==== Sys2Proof/Machine/Assembler.lean ====
section
/-! DEFINITION. The textual syntax of an operation (30_encoding.md R54, R55): a reader of lines and a printer. Text is a list
of characters. What R54 leaves open (spaces, letter case of digits) is log 13. A frame of the opcode table has no spelling
of its own in R54: it is written as the DECODE that presents it (log 8). -/

namespace Sys2Proof.Machine

/-- A token of a line: a bracket, a comma, or a word of other characters. -/
inductive Token where
  | lbrack
  | rbrack
  | comma
  | word (chars : List Char)
deriving DecidableEq, Repr

/-- A collected word, if there is one, before the tokens that follow it. -/
def flushWord (acc : List Char) (rest : List Token) : List Token :=
  if acc = [] then rest else .word acc :: rest

/-- Cut a line into tokens; `acc` is the word read so far. Any number of spaces separates words. -/
def tokens (acc : List Char) : List Char → List Token
  | [] => flushWord acc []
  | c :: cs =>
    if c = ' ' then flushWord acc (tokens [] cs)
    else if c = '[' then flushWord acc (.lbrack :: tokens [] cs)
    else if c = ']' then flushWord acc (.rbrack :: tokens [] cs)
    else if c = ',' then flushWord acc (.comma :: tokens [] cs)
    else tokens (acc ++ [c]) cs

/-- The value of a digit in a number base of at most 16; either letter case. -/
def digitValue (base : Nat) (c : Char) : Option Nat :=
  let n := c.toNat
  let v := if 48 ≤ n ∧ n ≤ 57 then n - 48 else if 65 ≤ n ∧ n ≤ 70 then n - 55 else if 97 ≤ n ∧ n ≤ 102 then n - 87 else base
  if v < base then some v else none

/-- The value of a digit string, most significant digit first, continuing from `acc`. -/
def digitsValue (base acc : Nat) : List Char → Option Nat
  | [] => some acc
  | c :: cs => match digitValue base c with
    | some v => digitsValue base (acc * base + v) cs
    | none => none

/-- A number, "decimal or `0x` hexadecimal" (R54). -/
def readNumber : List Char → Option Nat
  | '0' :: 'x' :: c :: cs => digitsValue 16 0 (c :: cs)
  | [] => none
  | c :: cs => digitsValue 10 0 (c :: cs)

/-- A `w`-bit unsigned operand with its name before it, as in `ft=0x00` (R54); a value of more bits is no operand. -/
def readOperand (w : Nat) : List Char → List Char → Option (BitVec w)
  | [], cs => match readNumber cs with
    | some n => if n < 2 ^ w then some (BitVec.ofNat w n) else none
    | none => none
  | p :: ps, c :: cs => if p = c then readOperand w ps cs else none
  | _ :: _, [] => none

/-- A byte: two hexadecimal digits (R54). -/
def readByte : List Char → Option Byte
  | [a, b] => match digitsValue 16 0 [a, b] with
    | some n => some (BitVec.ofNat 8 n)
    | none => none
  | _ => none

/-- The bytes of a bracket, up to the closing bracket, which ends the line (R54). -/
def readBytes : List Token → Option (List Byte)
  | [.rbrack] => some []
  | .word cs :: rest => match readByte cs, readBytes rest with
    | some b, some bs => some (b :: bs)
    | _, _ => none
  | _ => none

/-- The instruction of a line's tokens (R54, R55), in the spelling the decoder answers (log 7, log 8). -/
def readTokens (k : Config) : List Token → Option Instr
  | .word mnemonic :: .lbrack :: rest =>
    match readBytes rest with
    | some bytes =>
      if mnemonic = ['C', 'R', 'C', '1', '6'] then some (.crc16 bytes)
      else if mnemonic = ['C', 'R', 'C', '3', '2'] then some (.crc32 bytes)
      else if mnemonic = ['D', 'E', 'C', 'O', 'D', 'E'] then some (decodeForm k bytes)
      else none
    | none => none
  | .word mnemonic :: .word seq :: .comma :: .lbrack :: rest =>
    match readOperand 16 ['s', 'e', 'q', '='] seq, readBytes rest with
    | some q, some bytes =>
      if mnemonic = ['E', 'N', 'C', 'O', 'D', 'E', '.', 'C', 'M', 'D'] then some (.encodeCmd q bytes)
      else if mnemonic = ['E', 'N', 'C', 'O', 'D', 'E', '.', 'A', 'K', 'N'] then some (.encodeAkn q bytes)
      else if mnemonic = ['E', 'N', 'C', 'O', 'D', 'E', '.', 'M', 'S', 'G'] then some (.encodeMsg q bytes)
      else none
    | _, _ => none
  | .word mnemonic :: .word ft :: .comma :: .word seq :: .comma :: .lbrack :: rest =>
    match readOperand 8 ['f', 't', '='] ft, readOperand 16 ['s', 'e', 'q', '='] seq, readBytes rest with
    | some f, some q, some bytes =>
      if mnemonic = ['E', 'N', 'C', 'O', 'D', 'E'] then some (encodeForm k f q bytes) else none
    | _, _, _ => none
  | _ => none

/-- The instruction of a line (R54). -/
def readLine (k : Config) (line : List Char) : Option Instr := readTokens k (tokens [] line)

/-- The client's moves of a program: one operation a line, top to bottom (R54, R117). -/
def assemble (k : Config) : List (List Char) → Option (List ClientMove)
  | [] => some []
  | line :: rest => match readLine k line, assemble k rest with
    | some i, some moves => some (.issue (encode k i) :: moves)
    | _, _ => none

/-- An upper-case hexadecimal digit. -/
def hexDigit (n : Nat) : Char := if n < 10 then Char.ofNat (48 + n) else Char.ofNat (55 + n)

/-- The `k` low hexadecimal digits of a number, most significant first. -/
def hexDigits : Nat → Nat → List Char
  | 0, _ => []
  | k + 1, n => hexDigits k (n / 16) ++ [hexDigit (n % 16)]

/-- The bytes of a bracket with one space between two bytes (R54). -/
def printBytes : List Byte → List Char
  | [] => []
  | [b] => hexDigits 2 b.toNat
  | b :: bs => hexDigits 2 b.toNat ++ ' ' :: printBytes bs

/-- A byte sequence in its brackets (R54). -/
def printInput (bytes : List Byte) : List Char := '[' :: printBytes bytes ++ [']']

/-- A `seq=` operand and the comma after it (R54). -/
def printSeq (seq : Half) : List Char := ['s', 'e', 'q', '=', '0', 'x'] ++ hexDigits 4 seq.toNat ++ [',', ' ']

/-- The line of an instruction (R54, R55). -/
def printLine (k : Config) : Instr → List Char
  | .crc16 input => ['C', 'R', 'C', '1', '6', ' '] ++ printInput input
  | .crc32 input => ['C', 'R', 'C', '3', '2', ' '] ++ printInput input
  | .encode ft seq payload =>
      ['E', 'N', 'C', 'O', 'D', 'E', ' ', 'f', 't', '=', '0', 'x'] ++ hexDigits 2 ft.toNat ++ [',', ' '] ++
        printSeq seq ++ printInput payload
  | .decode input => ['D', 'E', 'C', 'O', 'D', 'E', ' '] ++ printInput input
  | .encodeCmd seq payload => ['E', 'N', 'C', 'O', 'D', 'E', '.', 'C', 'M', 'D', ' '] ++ printSeq seq ++ printInput payload
  | .encodeAkn seq payload => ['E', 'N', 'C', 'O', 'D', 'E', '.', 'A', 'K', 'N', ' '] ++ printSeq seq ++ printInput payload
  | .encodeMsg seq payload => ['E', 'N', 'C', 'O', 'D', 'E', '.', 'M', 'S', 'G', ' '] ++ printSeq seq ++ printInput payload
  | .frameCmd length seq hcrc payload fcrc =>
      ['D', 'E', 'C', 'O', 'D', 'E', ' '] ++ printInput (typedFrameBytes k k.ftCmd length seq hcrc payload fcrc)
  | .frameAkn length seq hcrc payload fcrc =>
      ['D', 'E', 'C', 'O', 'D', 'E', ' '] ++ printInput (typedFrameBytes k k.ftAkn length seq hcrc payload fcrc)
  | .frameMsg length seq hcrc payload fcrc =>
      ['D', 'E', 'C', 'O', 'D', 'E', ' '] ++ printInput (typedFrameBytes k k.ftMsg length seq hcrc payload fcrc)

end Sys2Proof.Machine
end

