-- ==== Sys2Proof/Safety.lean ====
section
/-! DEFINITION. The terms statements are made in: what an operation leaves unchanged, what a successful ENCODE and DECODE
leave, which inputs DECODE accepts, the invariant of every step, and one flipped bit. -/

namespace Sys2Proof.Safety

open Sys2Proof.Machine

/-- The two CRC result registers are unchanged. -/
def CrcRegsKept (s t : State) : Prop := t.crc16Out = s.crc16Out ∧ t.crc32Out = s.crc32Out

/-- The `F_*` registers are unchanged. -/
def FrameRegsKept (s t : State) : Prop :=
  t.fStart = s.fStart ∧ t.fVersion = s.fVersion ∧ t.fLength = s.fLength ∧ t.fType = s.fType ∧ t.fSeq = s.fSeq ∧
    t.fHcrc = s.fHcrc ∧ t.fFcrc = s.fFcrc

/-- `OLEN` and every byte of `OBUF` are unchanged. -/
def BufferKept (s t : State) : Prop := t.olen = s.olen ∧ ∀ a, t.obuf.read a = s.obuf.read a

/-- The constants and the client's side are unchanged. -/
def ClientKept (s t : State) : Prop := t.cfg = s.cfg ∧ t.pending = s.pending ∧ t.received = s.received

/-- Nothing a client can see but `STATUS` changed (10_state.md R25, last row). The hidden registers are not visible. -/
def OnlyStatus (s t : State) : Prop := CrcRegsKept s t ∧ FrameRegsKept s t ∧ BufferKept s t ∧ ClientKept s t

/-- `t` is what a successful ENCODE of this header and payload leaves from `s` (41_frame_encode.md R73, R76). -/
def EncodeResult (s : State) (ft : Byte) (seq : Half) (payload : List Byte) (t : State) : Prop :=
  let len := 13 + payload.length
  let hdr : List Byte :=
    [0xAA, 0x01, BitVec.ofNat 8 len, BitVec.ofNat 8 (len / 256), ft, seq.extractLsb' 0 8, seq.extractLsb' 8 8]
  let pre := hdr ++ bytes16 (crc16 s.cfg hdr) ++ payload
  let frame := pre ++ bytes32 (crc32 s.cfg pre)
  t.status = 0x00 ∧ t.olen.toNat = len ∧ (∀ a, t.obuf.read a = frame[a]?) ∧
    CrcRegsKept s t ∧ FrameRegsKept s t ∧ ClientKept s t

/-- The inputs DECODE accepts (42_frame_decode.md R80): size, header CRC, frame CRC, markers, `length` field. -/
abbrev Accepts (c : Config) (input : List Byte) : Prop :=
  13 ≤ input.length ∧ input.length ≤ 1400 ∧
    crc16 c (slice input 0 7) = le16 (slice input 7 9) ∧
    crc32 c (slice input 0 (input.length - 4)) = le32 (slice input (input.length - 4) input.length) ∧
    input.getD 0 0 = 0xAA ∧ input.getD 1 0 = 0x01 ∧ (le16 (slice input 2 4)).toNat ≤ 1400

/-- `t` is what a successful DECODE of this input leaves from `s` (R89). -/
def DecodeResult (s : State) (input : List Byte) (t : State) : Prop :=
  let n := input.length
  t.status = 0x00 ∧ t.fStart = input.getD 0 0 ∧ t.fVersion = input.getD 1 0 ∧ t.fLength = le16 (slice input 2 4) ∧
    t.fType = input.getD 4 0 ∧ t.fSeq = le16 (slice input 5 7) ∧ t.fHcrc = le16 (slice input 7 9) ∧
    t.fFcrc = le32 (slice input (n - 4) n) ∧ t.olen.toNat = n - 13 ∧
    (∀ a, t.obuf.read a = (slice input 9 (n - 4))[a]?) ∧ CrcRegsKept s t ∧ ClientKept s t

/-- `t` is what the block leaves from `s` when it consumes the frame with these fields (R42, R89). -/
def FrameLoaded (s : State) (ft : Byte) (length seq hcrc : Half) (payload : List Byte) (fcrc : Word) (t : State) : Prop :=
  t.status = 0x00 ∧ t.fStart = 0xAA ∧ t.fVersion = 0x01 ∧ t.fLength = length ∧ t.fType = ft ∧ t.fSeq = seq ∧
    t.fHcrc = hcrc ∧ t.fFcrc = fcrc ∧ t.olen.toNat = payload.length ∧ (∀ a, t.obuf.read a = payload[a]?) ∧
    CrcRegsKept s t ∧ ClientKept s t

/-- The client sees the same in both states. -/
def SameVisible (s t : State) : Prop := t.status = s.status ∧ OnlyStatus s t

/-- The hidden registers and the free counter are unchanged. -/
def HiddenKept (s t : State) : Prop := t.r16 = s.r16 ∧ t.r32 = s.r32 ∧ t.idx = s.idx ∧ t.freeCount = s.freeCount

/-- The values of an operation's result (10_state.md R25, R27): what it writes, `none` for what it leaves. -/
structure Writes where
  status : Byte
  crc16Out : Option Half
  crc32Out : Option Word
  frame : Option Frame
  output : Option (List Byte)
deriving DecidableEq, Repr

/-- `t` is `s` with these values written and every other client-visible register kept. -/
def Writes.Applied (w : Writes) (s t : State) : Prop :=
  t.status = w.status ∧ t.crc16Out = w.crc16Out.getD s.crc16Out ∧ t.crc32Out = w.crc32Out.getD s.crc32Out ∧
    (match w.frame with
      | none => FrameRegsKept s t
      | some f => t.fStart = f.start ∧ t.fVersion = f.protocolVersion ∧ t.fLength = f.length ∧ t.fType = f.frameType ∧
          t.fSeq = f.sequence ∧ t.fHcrc = f.headerCrc16 ∧ t.fFcrc = f.frameCrc32) ∧
    (match w.output with
      | none => BufferKept s t
      | some bytes => t.olen = BitVec.ofNat 11 bytes.length ∧ ∀ a, t.obuf.read a = bytes[a]?) ∧
    ClientKept s t

/-- The values `STATUS` ever holds (60_exceptions.md R93; 93_implementation_defined.md U11). -/
def legalStatuses : List Byte := [0x00, 0x01, 0x11, 0x02, 0x12, 0x03, 0x13, 0x04, 0x05]

/-- What holds of every state a run from reset reaches. -/
structure Inv (s : State) : Prop where
  /-- The configuration is admitted (R71, R6). -/
  cfgWf : s.cfg.wf
  /-- `OBUF` lists exactly the bytes 0 to `OLEN - 1` (R19, R26), so its canonical form holds. -/
  obufExact : s.obuf.map Prod.fst = List.range s.olen.toNat
  /-- `OLEN` is at most the capacity (R19). -/
  olenBound : s.olen.toNat ≤ s.cfg.maxFrameLen
  /-- `STATUS` holds one of its values (R16, R93). -/
  statusLegal : s.status ∈ legalStatuses
  /-- The `F_*` registers hold their reset values or an accepted frame's markers and `length` (R17, R24, R87). -/
  frameLegal : (s.fStart = 0 ∧ s.fVersion = 0 ∧ s.fLength = 0 ∧ s.fType = 0 ∧ s.fSeq = 0 ∧ s.fHcrc = 0 ∧ s.fFcrc = 0) ∨
    (s.fStart = s.cfg.startMarker ∧ s.fVersion = s.cfg.protocolVersion ∧ s.fLength.toNat ≤ s.cfg.maxFrameLen)

/-- The byte sequence with bit `k` flipped: bit `k % 8` of byte `k / 8`. -/
def flipBit (data : List Byte) (k : Nat) : List Byte := data.modify (k / 8) (· ^^^ ((1 : Byte) <<< (k % 8)))

/-- A step that neither faults nor is refused. -/
def SafeStep (s : State) : Prop := ∃ t, step s = .next t

end Sys2Proof.Safety
end

