-- ==== Sys2Proof/Certificates/Slice0/Obligations.lean ====
section
/-! DEFINITION. The statements for the provers. Each docstring names the rule of spec/ it formalises. Where a rule bears one
of the spec's own marks ("derived", "from general knowledge"), or the statement speaks of the model's client queue, the
docstring says so. No statement rests on a value of a hidden register or on the free counter. -/

open Sys2Proof Sys2Proof.Machine Sys2Proof.Safety

/-! ### The CRC engine -/

/-- 40_crc.md R64: CRC16 completes on every input, for every configuration, and writes `CRC16_OUT` and `STATUS` only. The
8-bit opcode alone selects it (R48). The hidden `R32` is not used. -/
def Obligations.Crc16WritesChecksum : Prop :=
  (∀ (k : Config) (c : Command), c.op = 0x00 → decode k c = .ok (.crc16 c.input)) ∧
  ∀ (s : State) (input : List Byte), ∃ t, exec (.crc16 input) s = .next t ∧
    t.crc16Out = crc s.cfg.crc16p input ∧ t.status = 0x00 ∧ t.crc32Out = s.crc32Out ∧
    FrameRegsKept s t ∧ BufferKept s t ∧ ClientKept s t ∧ t.r32 = s.r32

/-- 40_crc.md R65: CRC32 completes on every input, for every configuration, and writes `CRC32_OUT` and `STATUS` only. The
hidden `R16` is not used. -/
def Obligations.Crc32WritesChecksum : Prop :=
  (∀ (k : Config) (c : Command), c.op = 0x01 → decode k c = .ok (.crc32 c.input)) ∧
  ∀ (s : State) (input : List Byte), ∃ t, exec (.crc32 input) s = .next t ∧
    t.crc32Out = crc s.cfg.crc32p input ∧ t.status = 0x00 ∧ t.crc16Out = s.crc16Out ∧
    FrameRegsKept s t ∧ BufferKept s t ∧ ClientKept s t ∧ t.r16 = s.r16

/-- 40_crc.md R66 (marked derived, from the general-knowledge rule R61; log 2): the CRC of the empty sequence; with the two
seeds under `LIVOX_DEFAULT` (log 1). -/
def Obligations.CrcOfEmptyInput : Prop :=
  (∀ (w : Nat) (p : CrcParams w), p.refout = false → crc p [] = p.init ^^^ p.xorout) ∧
  (∀ (w : Nat) (p : CrcParams w), p.refout = true → crc p [] = reflect p.init ^^^ p.xorout) ∧
  ∀ c : Config, c.crc16p = Config.livoxCrc16 → c.crc32p = Config.livoxCrc32 →
    crc16 c [] = 0x4C49 ∧ crc32 c [] = 0x564F580A

/-- 40_crc.md R67 (marked derived; log 2): the register runs over a concatenation by parts, so the frame CRC of ENCODE may
be computed by continuing over the payload from the register after the first 9 bytes. -/
def Obligations.CrcRunsByParts : Prop :=
  (∀ (w : Nat) (p : CrcParams w) (reg : BitVec w) (a b : List Byte), crcRun p reg (a ++ b) = crcRun p (crcRun p reg a) b) ∧
  ∀ (c : Config) (ft : Byte) (seq : Half) (payload : List Byte),
    crc32 c (encodePrefix c ft seq payload) =
      crcFinish c.crc32p (crcRun c.crc32p (crcRun c.crc32p c.crc32p.init ((encodePrefix c ft seq payload).take 9)) payload)

/-- 40_crc.md R63 (general knowledge by the spec's mark; log 2): with both reflections the LSB-first form computes the same
value, and at every byte boundary its register is the reflection of R61's. -/
def Obligations.LsbFirstFormAgrees : Prop :=
  ∀ (w : Nat) (p : CrcParams w), 8 ≤ w → p.refin = true → p.refout = true →
    (∀ (reg : BitVec w) (data : List Byte), crcRunLsb p (reflect reg) data = reflect (crcRun p reg data)) ∧
    ∀ data : List Byte, crc p data = crcLsb p data

/-- 40_crc.md R68 (general knowledge by the spec's mark; log 2): a polynomial with a constant term detects every single-bit
difference. -/
def Obligations.CrcDetectsSingleBit : Prop :=
  ∀ (w : Nat) (p : CrcParams w), 8 ≤ w → p.poly.getLsbD 0 = true →
    ∀ (data : List Byte) (k : Nat), k < 8 * data.length → crc p (flipBit data k) ≠ crc p data

/-- 40_crc.md R69 (general knowledge by the spec's mark; log 2): over GF(2), the register after the loop is the remainder
modulo `G(x) = x^W + POLY(x)` of `M(x) x^W + INIT(x) x^(8n)`, where a byte's bits are taken in the opposite order if
`REFIN`; the value then has its bits reversed if `REFOUT`, and `XOROUT` added. -/
def Obligations.CrcIsPolynomialRemainder : Prop :=
  ∀ (w : Nat) (p : CrcParams w), 8 ≤ w → ∀ data : List Byte,
    let poly : (n : Nat) → BitVec n → Polynomial (ZMod 2) := fun n v =>
      ∑ i ∈ Finset.range n, if v.getLsbD i then Polynomial.X ^ i else 0
    let message : Polynomial (ZMod 2) := ∑ k ∈ Finset.range data.length,
      poly 8 (if p.refin then reflect (data.getD k 0) else data.getD k 0) * Polynomial.X ^ (8 * (data.length - 1 - k))
    ∃ r : BitVec w,
      poly w r = (message * Polynomial.X ^ w + poly w p.init * Polynomial.X ^ (8 * data.length)) %ₘ
        (Polynomial.X ^ w + poly w p.poly) ∧
      crc p data = (if p.refout then reflect r else r) ^^^ p.xorout

/-! ### ENCODE -/

/-- 41_frame_encode.md R73, R74, R76: on every header and every payload of at most 1387 bytes ENCODE completes with the
frame in `OBUF[0:OLEN]` and `STATUS` 0, and changes nothing else a client can see; a byte of `OBUF` at or above `OLEN` has
no value (10_state.md R26). -/
def Obligations.EncodeWritesFrame : Prop :=
  ∀ (s : State) (ft : Byte) (seq : Half) (payload : List Byte), s.cfg.wf → 13 + payload.length ≤ 1400 →
    ∃ t, exec (.encode ft seq payload) s = .next t ∧ EncodeResult s ft seq payload t

/-- 41_frame_encode.md R79: the three aliases are ENCODE with `FT` 0, 1 and 2. -/
def Obligations.EncodeAliasesWriteFrame : Prop :=
  ∀ (s : State) (seq : Half) (payload : List Byte), s.cfg.wf → 13 + payload.length ≤ 1400 →
    (∃ t, exec (.encodeCmd seq payload) s = .next t ∧ EncodeResult s 0x00 seq payload t) ∧
    (∃ t, exec (.encodeAkn seq payload) s = .next t ∧ EncodeResult s 0x01 seq payload t) ∧
    (∃ t, exec (.encodeMsg seq payload) s = .next t ∧ EncodeResult s 0x02 seq payload t)

/-- 41_frame_encode.md R75: the check on the natural number `13 + n`, before anything is written; 1400 is accepted. -/
def Obligations.EncodeChecksTotalLength : Prop :=
  ∀ (s : State) (ft : Byte) (seq : Half) (payload : List Byte), s.cfg.wf →
    ∃ t, exec (.encode ft seq payload) s = .next t ∧
      (13 + payload.length ≤ 1400 → t.status = 0x00) ∧
      (1400 < 13 + payload.length →
        t.status = 0x01 ∧ statusErr t.status = 1 ∧ statusSub t.status = 0 ∧ OnlyStatus s t)

/-- 41_frame_encode.md R79 with R75: an alias has the errors of ENCODE. -/
def Obligations.EncodeAliasesCheckLength : Prop :=
  ∀ (s : State) (seq : Half) (payload : List Byte), s.cfg.wf → 1400 < 13 + payload.length →
    (∃ t, exec (.encodeCmd seq payload) s = .next t ∧ t.status = 0x01 ∧ OnlyStatus s t) ∧
    (∃ t, exec (.encodeAkn seq payload) s = .next t ∧ t.status = 0x01 ∧ OnlyStatus s t) ∧
    (∃ t, exec (.encodeMsg seq payload) s = .next t ∧ t.status = 0x01 ∧ OnlyStatus s t)

/-- 30_encoding.md R45: what each CRC of a frame ENCODE built covers. -/
def Obligations.EncodedCrcsCoverTheirBytes : Prop :=
  ∀ (s : State) (ft : Byte) (seq : Half) (payload : List Byte), s.cfg.wf → 13 + payload.length ≤ 1400 →
    ∃ t, exec (.encode ft seq payload) s = .next t ∧
      le16 (slice t.output 7 9) = crc16 s.cfg (slice t.output 0 7) ∧
      le32 (slice t.output (t.output.length - 4) t.output.length) =
        crc32 s.cfg (slice t.output 0 (t.output.length - 4))

/-- 30_encoding.md R44: in every frame ENCODE builds the `length` field is the number of its bytes, 13 and the payload. -/
def Obligations.EncodedLengthFieldIsTotal : Prop :=
  ∀ (s : State) (ft : Byte) (seq : Half) (payload : List Byte), s.cfg.wf → 13 + payload.length ≤ 1400 →
    ∃ t, exec (.encode ft seq payload) s = .next t ∧ t.output.length = 13 + payload.length ∧
      (le16 (slice t.output 2 4)).toNat = t.output.length

/-- 41_frame_encode.md R78 (marked derived): two configurations that differ in their CRC records alone give frames that
differ at most in bytes 7, 8 and the last four. -/
def Obligations.EncodedFrameOutsideCrcsIsParameterFree : Prop :=
  ∀ (s u : State) (ft : Byte) (seq : Half) (payload : List Byte), s.cfg.wf → u.cfg.wf → 13 + payload.length ≤ 1400 →
    ∃ t v, exec (.encode ft seq payload) s = .next t ∧ exec (.encode ft seq payload) u = .next v ∧
      ∀ a, a < 7 ∨ (9 ≤ a ∧ a < 9 + payload.length) → t.obuf.read a = v.obuf.read a

/-- 30_encoding.md R51: every frame type, reserved ones included, is carried unchanged by ENCODE to byte 4 and by DECODE
from byte 4 to `F_TYPE`, without error. -/
def Obligations.FrameTypesAreCarriedUnchanged : Prop :=
  (∀ (s : State) (ft : Byte) (seq : Half) (payload : List Byte), s.cfg.wf → 13 + payload.length ≤ 1400 →
    ∃ t, exec (.encode ft seq payload) s = .next t ∧ t.status = 0x00 ∧ t.obuf.read 4 = some ft) ∧
  ∀ (s : State) (input : List Byte), s.cfg.wf → Accepts s.cfg input →
    ∃ t, exec (.decode input) s = .next t ∧ t.status = 0x00 ∧ input[4]? = some t.fType

/-! ### DECODE -/

/-- 42_frame_decode.md R89: when every check passes DECODE writes the frame, the payload and `STATUS`, and nothing else a
client can see. -/
def Obligations.DecodeWritesFrame : Prop :=
  ∀ (s : State) (input : List Byte), s.cfg.wf → Accepts s.cfg input →
    ∃ t, exec (.decode input) s = .next t ∧ DecodeResult s input t

/-- 42_frame_decode.md R82: `FrameTooLarge(0)` exactly when the input has more than 1400 bytes, whatever it contains. -/
def Obligations.DecodeRejectsTooLarge : Prop :=
  ∀ (s : State) (input : List Byte), s.cfg.wf →
    ∃ t, exec (.decode input) s = .next t ∧ (t.status = 0x01 ↔ 1400 < input.length) ∧
      (1400 < input.length → statusErr t.status = 1 ∧ statusSub t.status = 0 ∧ OnlyStatus s t)

/-- 42_frame_decode.md R83: `FrameTooShort(0)` exactly when the input has fewer than 13 bytes, the empty one included. -/
def Obligations.DecodeRejectsTooShort : Prop :=
  ∀ (s : State) (input : List Byte), s.cfg.wf →
    ∃ t, exec (.decode input) s = .next t ∧ (t.status = 0x04 ↔ input.length < 13) ∧
      (input.length < 13 → statusErr t.status = 4 ∧ statusSub t.status = 0 ∧ OnlyStatus s t)

/-- 42_frame_decode.md R84: `CrcMismatch(0)` exactly when the header CRC of an input of legal size does not match, whatever
its markers. -/
def Obligations.DecodeRejectsHeaderCrc : Prop :=
  ∀ (s : State) (input : List Byte), s.cfg.wf →
    let wrong := 13 ≤ input.length ∧ input.length ≤ 1400 ∧ crc16 s.cfg (slice input 0 7) ≠ le16 (slice input 7 9)
    ∃ t, exec (.decode input) s = .next t ∧ (t.status = 0x03 ↔ wrong) ∧
      (wrong → statusErr t.status = 3 ∧ statusSub t.status = 0 ∧ OnlyStatus s t)

/-- 42_frame_decode.md R85: `CrcMismatch(1)` exactly when the header CRC matches and the frame CRC does not. -/
def Obligations.DecodeRejectsFrameCrc : Prop :=
  ∀ (s : State) (input : List Byte), s.cfg.wf →
    let n := input.length
    let wrong := 13 ≤ n ∧ n ≤ 1400 ∧ crc16 s.cfg (slice input 0 7) = le16 (slice input 7 9) ∧
      crc32 s.cfg (slice input 0 (n - 4)) ≠ le32 (slice input (n - 4) n)
    ∃ t, exec (.decode input) s = .next t ∧ (t.status = 0x13 ↔ wrong) ∧
      (wrong → statusErr t.status = 3 ∧ statusSub t.status = 1 ∧ OnlyStatus s t)

/-- 42_frame_decode.md R86: `BadMarker(0)` and `BadMarker(1)`, reached only when both CRCs match; the start byte is tested
first. -/
def Obligations.DecodeRejectsMarkers : Prop :=
  ∀ (s : State) (input : List Byte), s.cfg.wf →
    let n := input.length
    let sound := 13 ≤ n ∧ n ≤ 1400 ∧ crc16 s.cfg (slice input 0 7) = le16 (slice input 7 9) ∧
      crc32 s.cfg (slice input 0 (n - 4)) = le32 (slice input (n - 4) n)
    ∃ t, exec (.decode input) s = .next t ∧
      (t.status = 0x02 ↔ sound ∧ input[0]? ≠ some 0xAA) ∧
      (t.status = 0x12 ↔ sound ∧ input[0]? = some 0xAA ∧ input[1]? ≠ some 0x01) ∧
      (t.status = 0x02 ∨ t.status = 0x12 → OnlyStatus s t)

/-- 42_frame_decode.md R87: `FrameTooLarge(1)` exactly when every other check passes and the `length` field is over 1400. -/
def Obligations.DecodeRejectsLengthField : Prop :=
  ∀ (s : State) (input : List Byte), s.cfg.wf →
    let n := input.length
    let wrong := 13 ≤ n ∧ n ≤ 1400 ∧ crc16 s.cfg (slice input 0 7) = le16 (slice input 7 9) ∧
      crc32 s.cfg (slice input 0 (n - 4)) = le32 (slice input (n - 4) n) ∧
      input[0]? = some 0xAA ∧ input[1]? = some 0x01 ∧ 1400 < (le16 (slice input 2 4)).toNat
    ∃ t, exec (.decode input) s = .next t ∧ (t.status = 0x11 ↔ wrong) ∧
      (wrong → statusErr t.status = 1 ∧ statusSub t.status = 1 ∧ n < (le16 (slice input 2 4)).toNat ∧ OnlyStatus s t)

/-- 42_frame_decode.md R88: a frame that passes the checks is accepted although its `length` field is not its size;
`F_LENGTH` returns the field and `OLEN` the real payload size. -/
def Obligations.DecodeIgnoresLengthMismatch : Prop :=
  ∀ (s : State) (input : List Byte), s.cfg.wf → Accepts s.cfg input → (le16 (slice input 2 4)).toNat ≠ input.length →
    ∃ t, exec (.decode input) s = .next t ∧ t.status = 0x00 ∧ t.fLength = le16 (slice input 2 4) ∧
      t.olen.toNat = input.length - 13

/-- 60_exceptions.md R100 with 42_frame_decode.md R80: of several conditions DECODE reports the first in the stated order,
and `STATUS` 0 exactly when none holds. -/
def Obligations.DecodeReportsFirstFailure : Prop :=
  ∀ (s : State) (input : List Byte), s.cfg.wf →
    let n := input.length
    ∃ t, exec (.decode input) s = .next t ∧ t.status =
      if 1400 < n then 0x01
      else if n < 13 then 0x04
      else if crc16 s.cfg (slice input 0 7) ≠ le16 (slice input 7 9) then 0x03
      else if crc32 s.cfg (slice input 0 (n - 4)) ≠ le32 (slice input (n - 4) n) then 0x13
      else if input[0]? ≠ some 0xAA then 0x02
      else if input[1]? ≠ some 0x01 then 0x12
      else if 1400 < (le16 (slice input 2 4)).toNat then 0x11
      else 0x00

/-- 42_frame_decode.md R92: on every failing outcome of DECODE only `STATUS` changes. For every configuration. -/
def Obligations.FailedDecodeChangesOnlyStatus : Prop :=
  ∀ (s : State) (input : List Byte), ∃ t, exec (.decode input) s = .next t ∧
    (t.status ≠ 0x00 → OnlyStatus s t)

/-- The frame rows of the opcode table (30_encoding.md R42, R57) as inputs of a DECODE (the model's reading of these rows,
log 8; 42_frame_decode.md R89): a frame of a defined type with right CRCs and a `length` field of at most 1400 is loaded. -/
def Obligations.TypedFramesAreLoaded : Prop :=
  ∀ (s : State) (length seq hcrc : Half) (payload : List Byte) (fcrc : Word), s.cfg.wf → 13 + payload.length ≤ 1400 →
    length.toNat ≤ 1400 →
    let hdr : Byte → List Byte := fun ft => [0xAA, 0x01] ++ bytes16 length ++ [ft] ++ bytes16 seq
    let sound : Byte → Prop := fun ft => hcrc = crc16 s.cfg (hdr ft) ∧
      fcrc = crc32 s.cfg (hdr ft ++ bytes16 hcrc ++ payload)
    (sound 0 → ∃ t, exec (.frameCmd length seq hcrc payload fcrc) s = .next t ∧
      FrameLoaded s 0 length seq hcrc payload fcrc t) ∧
    (sound 1 → ∃ t, exec (.frameAkn length seq hcrc payload fcrc) s = .next t ∧
      FrameLoaded s 1 length seq hcrc payload fcrc t) ∧
    (sound 2 → ∃ t, exec (.frameMsg length seq hcrc payload fcrc) s = .next t ∧
      FrameLoaded s 2 length seq hcrc payload fcrc t)

/-- 41_frame_encode.md R77 (marked derived): for every configuration, what ENCODE built DECODE returns, on the same
instance or on another with the same configuration (70_reset_and_hazards.md R113). -/
def Obligations.DecodeUndoesEncode : Prop :=
  ∀ (s v : State) (ft : Byte) (seq : Half) (payload : List Byte), s.cfg.wf → v.cfg = s.cfg → payload.length ≤ 1387 →
    ∃ t u, exec (.encode ft seq payload) s = .next t ∧ exec (.decode t.output) v = .next u ∧
      u.status = 0x00 ∧ u.fStart = 0xAA ∧ u.fVersion = 0x01 ∧ u.fLength.toNat = 13 + payload.length ∧
      u.fLength.toNat = t.output.length ∧ u.fType = ft ∧ u.fSeq = seq ∧ u.fHcrc = le16 (slice t.output 7 9) ∧
      u.fFcrc = le32 (slice t.output (t.output.length - 4) t.output.length) ∧
      u.olen.toNat = payload.length ∧ u.output = payload

/-- 42_frame_decode.md R91 (marked derived, with R68 which is general knowledge; log 2): a frame ENCODE built with any one
bit flipped is rejected with `CrcMismatch`: sub-code 0 in bytes 0 to 8, sub-code 1 in byte 9 or later. -/
def Obligations.FlippedBitIsCrcMismatch : Prop :=
  ∀ (s v : State) (ft : Byte) (seq : Half) (payload : List Byte) (k : Nat), s.cfg.wf → v.cfg = s.cfg →
    s.cfg.crc16p.poly.getLsbD 0 = true → s.cfg.crc32p.poly.getLsbD 0 = true →
    payload.length ≤ 1387 → k < 8 * (13 + payload.length) →
    ∃ t u, exec (.encode ft seq payload) s = .next t ∧ exec (.decode (flipBit t.output k)) v = .next u ∧
      u.status = (if k < 72 then 0x03 else 0x13) ∧ OnlyStatus v u

/-! ### Errors, write sets, and the block as a whole -/

/-- 60_exceptions.md R97 with the codes of R93: what `raise` does; it is the block's one way of taking an exception. -/
def Obligations.RaiseWritesOnlyStatus : Prop :=
  (∀ (e : OpError) (s : State), ∃ t, raise e s = .next t ∧ statusErr t.status = errCode e ∧
    statusSub t.status = errSub e ∧ t.status.extractLsb' 6 2 = 0 ∧ OnlyStatus s t ∧ HiddenKept s t) ∧
  errStatus .frameTooLargeSize = 0x01 ∧ errStatus .frameTooLargeField = 0x11 ∧ errStatus .badMarkerStart = 0x02 ∧
    errStatus .badMarkerVersion = 0x12 ∧ errStatus .crcMismatchHeader = 0x03 ∧ errStatus .crcMismatchFrame = 0x13 ∧
    errStatus .frameTooShort = 0x04 ∧ errStatus .illegalOp = 0x05

/-- 60_exceptions.md R99, 30_encoding.md R50: a reserved opcode completes with `IllegalOp(0)` and no other change, whatever
the input. -/
def Obligations.ReservedOpcodeIsIllegalOp : Prop :=
  ∀ (s : State) (cmd : Word) (input : List Byte), 4 ≤ cmd.toNat % 256 →
    ∃ t, issue ⟨cmd, input⟩ s = .next t ∧ t.status = 0x05 ∧ OnlyStatus s t ∧ HiddenKept s t

/-- 60_exceptions.md R93, R94: which values of `STATUS` each opcode can leave; no other value is ever written. -/
def Obligations.StatusValuesByOpcode : Prop :=
  ∀ (s : State) (c : Command), ∃ t, issue c s = .next t ∧ t.status ∈ legalStatuses ∧
    (c.op = 0x00 ∨ c.op = 0x01 → t.status = 0x00) ∧
    (c.op = 0x02 → t.status = 0x00 ∨ t.status = 0x01) ∧
    (c.op = 0x03 → t.status ≠ 0x05) ∧
    (4 ≤ c.op.toNat → t.status = 0x05)

/-- 10_state.md R13: the outcome of an operation, its error code and every value it writes, is a function of the command
word, the input bytes and the configuration, and of nothing else. -/
def Obligations.OutcomeDependsOnCommandOnly : Prop :=
  ∀ (c : Command) (cfg : Config), ∃ w : Writes, ∀ s : State, s.cfg = cfg →
    ∃ t, issue c s = .next t ∧ w.Applied s t

/-- 10_state.md R25: which registers each operation writes when it succeeds, and that an error writes `STATUS` alone. -/
def Obligations.WriteSetsByOperation : Prop :=
  ∀ (c : Command) (cfg : Config), ∃ w : Writes,
    (c.op = 0x00 ∨ c.op = 0x01 → w.status = 0x00) ∧
    (w.status ≠ 0x00 → w.crc16Out = none ∧ w.crc32Out = none ∧ w.frame = none ∧ w.output = none) ∧
    (w.status = 0x00 →
      (w.crc16Out.isSome ↔ c.op = 0x00) ∧ (w.crc32Out.isSome ↔ c.op = 0x01) ∧ (w.frame.isSome ↔ c.op = 0x03) ∧
      (w.output.isSome ↔ c.op = 0x02 ∨ c.op = 0x03) ∧
      (c.op = 0x02 → w.output.map List.length = some (13 + c.input.length)) ∧
      (c.op = 0x03 → w.output.map List.length = some (c.input.length - 13))) ∧
    ∀ s : State, s.cfg = cfg → ∃ t, issue c s = .next t ∧ w.Applied s t

/-- 20_memory.md R34 (marked derived): the same operation twice leaves what once leaves, as far as a client can see. -/
def Obligations.OperationIsIdempotent : Prop :=
  ∀ (s : State) (c : Command), ∃ t u, issue c s = .next t ∧ issue c t = .next u ∧ SameVisible t u

/-- 60_exceptions.md R102, 10_state.md R16: no earlier `STATUS` influences an operation, so errors do not stick. -/
def Obligations.EarlierStatusHasNoInfluence : Prop :=
  ∀ (s : State) (c : Command) (earlier : Byte), ∃ t u,
    issue c s = .next t ∧ issue c (s.setStatus earlier) = .next u ∧ SameVisible t u

/-- 10_state.md R22: the hidden registers have no effect on an operation, whatever they hold; nor has the free counter. -/
def Obligations.HiddenRegistersHaveNoInfluence : Prop :=
  ∀ (s : State) (c : Command) (r16 : Half) (r32 : Word) (idx freeCount : Nat), ∃ t u,
    issue c s = .next t ∧
    issue c { s with r16 := r16, r32 := r32, idx := idx, freeCount := freeCount } = .next u ∧ SameVisible t u

/-! ### The client and the step -/

/-- A step runs the decoded instruction (70_reset_and_hazards.md R117, R118; the queue of moves is the model's, log 5): when
the client's next move issues a command that decodes, under the state's constants, to `i`, the step is `exec i` on the
state with that move taken off the queue. The same for an opcode-table word placed as the next move (log 9), in a state
with the stated constants. -/
def Obligations.StepRunsDecodedInstruction : Prop :=
  (∀ (s : State) (c : Command) (rest : List ClientMove) (i : Instr), s.pending = .issue c :: rest →
    decode s.cfg c = .ok i → step s = exec i { s with pending := rest }) ∧
  ∀ (s : State) (nbits w : Nat) (i : Instr), s.cfg.wf → decodeTableWord nbits w = some i →
    step (s.withFetchWord nbits w) = exec i s

/-- 70_reset_and_hazards.md R116, R117 (the queue of moves is the model's, log 5): every operation on every input completes,
so a program of operations runs to its end, one step each, with the constants untouched. -/
def Obligations.ProgramsRunToTheirEnd : Prop :=
  ∀ (commands : List Command) (s : State), s.pending = commands.map .issue →
    ∃ t, core.run commands.length s = .next t ∧ t.pending = [] ∧ t.cfg = s.cfg ∧ t.received = s.received

/-- 10_state.md R24, 70_reset_and_hazards.md R109: what reset leaves, from the state the machine starts in and as a move of
the client (log 12 for the model's own fields). Nothing is said of the hidden registers. -/
def Obligations.ResetClearsRegisters : Prop :=
  let cleared : State → Prop := fun t => t.status = 0x00 ∧ t.crc16Out = 0 ∧ t.crc32Out = 0 ∧ t.fStart = 0 ∧
    t.fVersion = 0 ∧ t.fLength = 0 ∧ t.fType = 0 ∧ t.fSeq = 0 ∧ t.fHcrc = 0 ∧ t.fFcrc = 0 ∧ t.olen = 0 ∧
    ∀ a, t.obuf.read a = none
  cleared State.reset ∧
  ∀ (s : State) (rest : List ClientMove), s.pending = .reset :: rest →
    ∃ t, step s = .next t ∧ cleared t ∧ t.cfg = s.cfg ∧ t.pending = rest ∧ t.received = s.received

/-- 70_reset_and_hazards.md R118, 20_memory.md R34 (the list of values read is the model's, log 6): reading `STATUS`, a
result register or `OLEN` gives its value, zero-extended, and changes nothing in the block. -/
def Obligations.RegisterReadsGiveValues : Prop :=
  ∀ (s : State) (r : Reg) (rest : List ClientMove), s.pending = .readReg r :: rest →
    ∃ v : Word, step s = .next { s with pending := rest, received := v :: s.received } ∧
      v.toNat = (match r with
        | .status => s.status.toNat
        | .crc16Out => s.crc16Out.toNat
        | .crc32Out => s.crc32Out.toNat
        | .fStart => s.fStart.toNat
        | .fVersion => s.fVersion.toNat
        | .fLength => s.fLength.toNat
        | .fType => s.fType.toNat
        | .fSeq => s.fSeq.toNat
        | .fHcrc => s.fHcrc.toNat
        | .fFcrc => s.fFcrc.toNat
        | .olen => s.olen.toNat)

/-- 10_state.md R19, 70_reset_and_hazards.md R118 (the list of values read is the model's, log 6): in a state that meets the
invariant, reading `OBUF[i]` gives the byte when `i < OLEN`, with no change in the block, and is refused otherwise. -/
def Obligations.ObufReadsGiveBytesBelowOlen : Prop :=
  ∀ (s : State) (i : Nat) (rest : List ClientMove), Inv s → s.pending = .readObuf i :: rest →
    (i < s.olen.toNat → ∃ b : Byte, s.output[i]? = some b ∧
      step s = .next { s with pending := rest, received := b.setWidth 32 :: s.received }) ∧
    (s.olen.toNat ≤ i → step s = .refused (.obufUnreadable i))

/-- Every step keeps the invariant (10_state.md R16, R17, R19, R21, R26; 60_exceptions.md R93; the invariant gathers them):
`OBUF` holds exactly the bytes below `OLEN`, `OLEN` is at most 1400, `STATUS` holds one of its values, the `F_*` registers
are clear or an accepted frame's, and the configuration is admitted and does not change. -/
def Obligations.StepKeepsInvariant : Prop :=
  ∀ s t : State, Inv s → step s = .next t → Inv t ∧ t.cfg = s.cfg

/-- The state after reset meets the invariant (10_state.md R24). -/
def Obligations.ResetMeetsInvariant : Prop := Inv State.reset

/-- From a state that meets the invariant no step faults, and the only step that is refused is a client's read of `OBUF[i]`
with `i >= OLEN` (10_state.md R19; 60_exceptions.md: the block is never stuck, never refuses). -/
def Obligations.OnlyUnreadableObufStops : Prop :=
  ∀ s : State, Inv s → SafeStep s ∨
    ∃ i rest, s.pending = .readObuf i :: rest ∧ s.olen.toNat ≤ i ∧ step s = .refused (.obufUnreadable i)

/-! ### Encodings -/

/-- Decoding undoes encoding, for every instruction (30_encoding.md R47, R48, R53; which of two matching rows is answered is
the model's choice, log 7, log 8): every constructor at every operand, but that an ENCODE of type 0, 1 or 2 comes back as
its alias, and a DECODE of an input that is a typed frame as that frame. -/
def Obligations.DecodeUndoesEncoding : Prop :=
  ∀ k : Config, k.wf →
  (∀ i : Instr, i.wf k = true → decode k (encode k i) = .ok (i.canonical k)) ∧
  (∀ input, (Instr.crc16 input).canonical k = .crc16 input) ∧
  (∀ input, (Instr.crc32 input).canonical k = .crc32 input) ∧
  (∀ (ft : Byte) seq payload, 3 ≤ ft.toNat → (Instr.encode ft seq payload).canonical k = .encode ft seq payload) ∧
  (∀ seq payload, (Instr.encode 0 seq payload).canonical k = .encodeCmd seq payload ∧
    (Instr.encode 1 seq payload).canonical k = .encodeAkn seq payload ∧
    (Instr.encode 2 seq payload).canonical k = .encodeMsg seq payload) ∧
  (∀ seq payload, (Instr.encodeCmd seq payload).canonical k = .encodeCmd seq payload ∧
    (Instr.encodeAkn seq payload).canonical k = .encodeAkn seq payload ∧
    (Instr.encodeMsg seq payload).canonical k = .encodeMsg seq payload) ∧
  (∀ l q h p c, (Instr.frameCmd l q h p c).canonical k = .frameCmd l q h p c ∧
    (Instr.frameAkn l q h p c).canonical k = .frameAkn l q h p c ∧
    (Instr.frameMsg l q h p c).canonical k = .frameMsg l q h p c) ∧
  ∀ input, (Instr.decode input).canonical k = .decode input ∨
    (13 ≤ input.length ∧ input.length ≤ 1400 ∧ input[0]? = some 0xAA ∧ input[1]? = some 0x01 ∧
      ∃ l q h p c,
        (input[4]? = some 0 ∧ (Instr.decode input).canonical k = .frameCmd l q h p c ∧
          input = typedFrameBytes k 0 l q h p c) ∨
        (input[4]? = some 1 ∧ (Instr.decode input).canonical k = .frameAkn l q h p c ∧
          input = typedFrameBytes k 1 l q h p c) ∨
        (input[4]? = some 2 ∧ (Instr.decode input).canonical k = .frameMsg l q h p c ∧
          input = typedFrameBytes k 2 l q h p c))

/-- Encoding undoes decoding (30_encoding.md R47, R48), for every configuration and whichever spelling the decoder answers
(log 7, log 8): no input byte and no bit of the word but the ignored ones is lost. -/
def Obligations.EncodingUndoesDecode : Prop :=
  ∀ (k : Config) (c : Command) (i : Instr), decode k c = .ok i →
    (encode k i).input = c.input ∧ (encode k i).op = c.op ∧ (c.op = 0x02 → (encode k i).cmd = c.cmd) ∧
    (c.op ≠ 0x02 → (encode k i).ft = 0 ∧ (encode k i).seq = 0)

/-- The spelling the decoder answers means what the given one means. That an alias means ENCODE with its frame type is
30_encoding.md R55 and 41_frame_encode.md R79; which spelling is canonical is the model's choice (log 7), and so is that a
frame row means the DECODE of its frame (log 8), both DESIGN CHOICE. -/
def Obligations.CanonicalSpellingHasSameMeaning : Prop :=
  ∀ (i : Instr) (s : State), exec (i.canonical s.cfg) s = exec i s

/-- A command decodes exactly when its opcode is one of the four (30_encoding.md R48), and the instruction it decodes to is
of a row whose match and mask columns it matches (R57), in the command word and, for a frame row, in the input's bytes.
That a command decodes to an alias or to a frame row, and that DECODE's columns stand for a frame row on the command
word, are the model's choices (log 7, log 8; DESIGN CHOICE). Under an admitted configuration the columns of the aliases and
of the frame rows are those of the opcode table. -/
def Obligations.DecodedCommandMatchesItsRow : Prop :=
  (∀ (k : Config) (c : Command), (∃ i, decode k c = .ok i) ↔ c.op.toNat < 4) ∧
  (∀ (k : Config) (c : Command) (i : Instr), decode k c = .ok i →
    c.cmd &&& (i.commandRow k).2 = (i.commandRow k).1 ∧
    List.zipWith (· &&& ·) (c.input.take 9) (i.frameRow k).2 = (i.frameRow k).1) ∧
  ∀ k : Config, k.wf →
    (∀ seq payload, (Instr.encodeCmd seq payload).commandRow k = (0x00000002, 0x0000FFFF) ∧
      (Instr.encodeAkn seq payload).commandRow k = (0x00000102, 0x0000FFFF) ∧
      (Instr.encodeMsg seq payload).commandRow k = (0x00000202, 0x0000FFFF)) ∧
    ∀ l q h p c,
      (Instr.frameCmd l q h p c).frameRow k =
        ([0xAA, 0x01, 0, 0, 0, 0, 0, 0, 0], [0xFF, 0xFF, 0, 0, 0xFF, 0, 0, 0, 0]) ∧
      (Instr.frameAkn l q h p c).frameRow k =
        ([0xAA, 0x01, 0, 0, 1, 0, 0, 0, 0], [0xFF, 0xFF, 0, 0, 0xFF, 0, 0, 0, 0]) ∧
      (Instr.frameMsg l q h p c).frameRow k =
        ([0xAA, 0x01, 0, 0, 2, 0, 0, 0, 0], [0xFF, 0xFF, 0, 0, 0xFF, 0, 0, 0, 0])

/-- 30_encoding.md R48: an operation is selected by `OP` alone; the bits `CMD[31:8]` are the operands of ENCODE, and CRC16,
CRC32 and DECODE ignore them. -/
def Obligations.OpcodeAloneSelects : Prop :=
  (∀ (k : Config) (c : Command), (∃ i, decode k c = .ok i) ↔
    (c.cmd &&& 0xFF = 0x00 ∨ c.cmd &&& 0xFF = 0x01 ∨ c.cmd &&& 0xFF = 0x02 ∨ c.cmd &&& 0xFF = 0x03)) ∧
  (∀ (ft : Byte) (seq : Half) (payload : List Byte) (s : State),
    issue ⟨seq ++ ft ++ (0x02 : Byte), payload⟩ s = exec (.encode ft seq payload) s) ∧
  ∀ (k : Config) (upper : BitVec 24) (op : Byte) (input : List Byte), op = 0x00 ∨ op = 0x01 ∨ op = 0x03 →
    decode k ⟨upper ++ op, input⟩ = decode k ⟨(0 : BitVec 24) ++ op, input⟩

/-- Words of the spec's encodings (30_encoding.md R47, R50; 95_test_vectors.md E5, E6, X1, D2) decode, under an admitted
configuration, to the instructions they stand for. That the word of E5 is answered as ENCODE.MSG and not as ENCODE, and the
frame of D2 as FRAME.CMD and not as DECODE, are the model's choices (log 7, log 8; DESIGN CHOICE). -/
def Obligations.KnownWordsDecode : Prop :=
  ∀ k : Config, k.wf →
  decode k ⟨0xFFFFFF00, [0x00]⟩ = .ok (.crc16 [0x00]) ∧
  decode k ⟨0x00000001, [0x31]⟩ = .ok (.crc32 [0x31]) ∧
  decode k ⟨0xFFFF0202, [0x00, 0x00]⟩ = .ok (.encodeMsg 0xFFFF [0x00, 0x00]) ∧
  decode k ⟨0x12347F02, [0xDE, 0xAD]⟩ = .ok (.encode 0x7F 0x1234 [0xDE, 0xAD]) ∧
  decode k ⟨0xABCDEF03, []⟩ = .ok (.decode []) ∧
  decode k ⟨0x00000003, [0xAA, 0x01, 0x0D, 0x00, 0x00, 0x00, 0x00, 0x8C, 0xC1, 0x74, 0xD4, 0xD2, 0x3A]⟩ =
    .ok (.frameCmd 13 0 0xC18C [] 0x3AD2D474) ∧
  decode k ⟨0x00000004, []⟩ = .error (.reservedOpcode 0x04)

/-- 30_encoding.md R54, R55: reading the line printed for an instruction gives that instruction in the decoder's spelling,
and the command word of a line is the number R54 gives. What R54 leaves open in the text is log 13; that a line ENCODE of a
defined type is read as its alias and a line DECODE of a typed frame as its frame row are the model's choices (log 7, log
8); all three DESIGN CHOICE. -/
def Obligations.AssemblerReadsWhatItPrints : Prop :=
  (∀ (k : Config) (i : Instr), k.wf → i.wf k = true → readLine k (printLine k i) = some (i.canonical k)) ∧
  (∀ (k : Config) (ft : Byte) (seq : Half) (payload : List Byte),
    (encode k (.encode ft seq payload)).cmd.toNat = 2 + 256 * ft.toNat + 65536 * seq.toNat) ∧
  ∀ (k : Config) (input : List Byte),
    (encode k (.crc16 input)).cmd = 0 ∧ (encode k (.crc32 input)).cmd = 1 ∧ (encode k (.decode input)).cmd = 3

/-! ### Bytes -/

/-- 00_scope.md R11, 20_memory.md R28, R30: a value written to `OBUF` byte by byte is read back least significant byte
first, every other byte is kept, and reading a 2-byte field one byte at a time gives its low and its high byte. -/
def Obligations.BytesAreLittleEndian : Prop :=
  (∀ (m : Memory) (i k v : Nat), (∀ j, j < k → (m.memWrite i k v).read (i + j) = some (BitVec.ofNat 8 (v / 256 ^ j))) ∧
    ∀ a, a < i ∨ i + k ≤ a → (m.memWrite i k v).read a = m.read a) ∧
  (∀ k v : Nat, memRead (leBytes k v) 0 k = some (v % 256 ^ k)) ∧
  ∀ (input : List Byte) (i : Nat), i + 2 ≤ input.length → ∃ lo hi, memRead input i 1 = some lo ∧
    memRead input (i + 1) 1 = some hi ∧ memRead input i 2 = some (lo + 256 * hi)

/-- 30_encoding.md R43: how the fields of a frame of at least 13 bytes are assembled from its bytes; at which offsets the
serializer, the function `serialize` of ENCODE, emits them; and the same offsets in the wire bytes of any frame. -/
def Obligations.FrameFieldsStandAtTheirOffsets : Prop :=
  (∀ f : List Byte, 13 ≤ f.length →
    let n := f.length
    let x := frameFields f
    let byte : Nat → Nat := fun i => (f.getD i 0).toNat
    f[0]? = some x.start ∧ f[1]? = some x.protocolVersion ∧ x.length.toNat = byte 2 + 256 * byte 3 ∧
      f[4]? = some x.frameType ∧ x.sequence.toNat = byte 5 + 256 * byte 6 ∧
      x.headerCrc16.toNat = byte 7 + 256 * byte 8 ∧ x.payload.length = n - 13 ∧
      (∀ j, j < n - 13 → x.payload[j]? = f[9 + j]?) ∧
      x.frameCrc32.toNat =
        byte (n - 4) + 2 ^ 8 * byte (n - 3) + 2 ^ 16 * byte (n - 2) + 2 ^ 24 * byte (n - 1)) ∧
  (∀ (k : Config) (ft : Byte) (seq : Half) (payload f : List Byte), serialize k ft seq payload = .ok f →
    let n := f.length
    n = 13 + payload.length ∧ f[0]? = some k.startMarker ∧ f[1]? = some k.protocolVersion ∧
      slice f 2 4 = bytes16 (BitVec.ofNat 16 n) ∧ f[4]? = some ft ∧ slice f 5 7 = bytes16 seq ∧
      slice f 7 9 = bytes16 (crc16 k (slice f 0 7)) ∧ slice f 9 (n - 4) = payload ∧
      slice f (n - 4) n = bytes32 (crc32 k (slice f 0 (n - 4)))) ∧
  ∀ x : Frame,
    let f := frameBytes x
    let n := f.length
    f[0]? = some x.start ∧ f[1]? = some x.protocolVersion ∧ slice f 2 4 = bytes16 x.length ∧
      f[4]? = some x.frameType ∧ slice f 5 7 = bytes16 x.sequence ∧ slice f 7 9 = bytes16 x.headerCrc16 ∧
      slice f 9 (n - 4) = x.payload ∧ slice f (n - 4) n = bytes32 x.frameCrc32
end

