-- ==== Sys2Proof/Laws/Operands.lean ====
section
/-! SUPPORT. The laws of Machine/Operands.lean: little-endian assembly is undone by serialization and back, and a frame is
its fields. -/

namespace Sys2Proof.Machine

theorem length_slice (s : List Byte) (a b : Nat) : (slice s a b).length = min (b - a) (s.length - a) := by
  simp [slice]

theorem slice_getElem? (s : List Byte) (a b i : Nat) (h : i < b - a) : (slice s a b)[i]? = s[a + i]? := by
  simp [slice, h]

@[simp] theorem length_bytes16 (v : Half) : (bytes16 v).length = 2 := rfl
@[simp] theorem length_bytes32 (v : Word) : (bytes32 v).length = 4 := rfl
@[simp] theorem length_leBytes (k v : Nat) : (leBytes k v).length = k := by
  induction k generalizing v with
  | zero => rfl
  | succ k ih => simp [leBytes, ih]

@[simp] theorem length_headerBytes (a b : Byte) (l : Half) (t : Byte) (q : Half) : (headerBytes a b l t q).length = 7 := rfl

@[simp] theorem length_frameBytes (f : Frame) : (frameBytes f).length = 13 + f.payload.length := by
  simp [frameBytes]; omega

theorem bytes16_toNat (v : Half) : bytes16 v = [BitVec.ofNat 8 v.toNat, BitVec.ofNat 8 (v.toNat / 256)] := by
  simp [bytes16, BitVec.extractLsb', Nat.shiftRight_eq_div_pow]

theorem leNat_two (a b : Byte) : leNat [a, b] = a.toNat + 256 * b.toNat := by simp only [leNat]; omega

theorem le16_bytes16 (v : Half) : le16 (bytes16 v) = v := by
  apply BitVec.eq_of_toNat_eq
  have hv := v.isLt
  rw [bytes16_toNat, le16, leNat_two]
  simp only [BitVec.toNat_ofNat]
  omega

theorem bytes16_le16 (a b : Byte) : bytes16 (le16 [a, b]) = [a, b] := by
  have ha := a.isLt
  have hb := b.isLt
  rw [bytes16_toNat, le16, leNat_two]
  simp only [BitVec.toNat_ofNat, List.cons.injEq, and_true]
  refine ⟨?_, ?_⟩ <;> apply BitVec.eq_of_toNat_eq <;> simp only [BitVec.toNat_ofNat] <;> omega

theorem leNat_four (a b c d : Byte) :
    leNat [a, b, c, d] = a.toNat + 256 * b.toNat + 65536 * c.toNat + 16777216 * d.toNat := by
  simp only [leNat]; omega

theorem bytes32_toNat (v : Word) : bytes32 v =
    [BitVec.ofNat 8 v.toNat, BitVec.ofNat 8 (v.toNat / 256), BitVec.ofNat 8 (v.toNat / 65536),
      BitVec.ofNat 8 (v.toNat / 16777216)] := by
  simp [bytes32, BitVec.extractLsb', Nat.shiftRight_eq_div_pow]

theorem le32_bytes32 (v : Word) : le32 (bytes32 v) = v := by
  apply BitVec.eq_of_toNat_eq
  have hv := v.isLt
  rw [bytes32_toNat, le32, leNat_four]
  simp only [BitVec.toNat_ofNat]
  omega

theorem bytes32_le32 (a b c d : Byte) : bytes32 (le32 [a, b, c, d]) = [a, b, c, d] := by
  have ha := a.isLt
  have hb := b.isLt
  have hc := c.isLt
  have hd := d.isLt
  rw [bytes32_toNat, le32, leNat_four]
  simp only [BitVec.toNat_ofNat, List.cons.injEq, and_true]
  refine ⟨?_, ?_, ?_, ?_⟩ <;> apply BitVec.eq_of_toNat_eq <;> simp only [BitVec.toNat_ofNat] <;> omega

/-- The fields of a frame's wire bytes are its fields (R42, R43). -/
theorem frameFields_frameBytes (f : Frame) : frameFields (frameBytes f) = f := by
  have h16 := fun v : Half => le16_bytes16 v
  have h32 := fun v : Word => le32_bytes32 v
  obtain ⟨a, b, l, t, q, h, p, c⟩ := f
  have hlen : (frameBytes ⟨a, b, l, t, q, h, p, c⟩).length = 13 + p.length := length_frameBytes _
  have hb : frameBytes ⟨a, b, l, t, q, h, p, c⟩ =
      a :: b :: l.extractLsb' 0 8 :: l.extractLsb' 8 8 :: t :: q.extractLsb' 0 8 :: q.extractLsb' 8 8 ::
        h.extractLsb' 0 8 :: h.extractLsb' 8 8 :: (p ++ bytes32 c) := by
    simp [frameBytes, headerBytes, bytes16]
  have hp : slice (frameBytes ⟨a, b, l, t, q, h, p, c⟩) 9 (13 + p.length - 4) = p := by
    rw [hb, slice, show 13 + p.length - 4 - 9 = p.length by omega]
    simp
  have hc : slice (frameBytes ⟨a, b, l, t, q, h, p, c⟩) (13 + p.length - 4) (13 + p.length) = bytes32 c := by
    rw [hb, slice, show 13 + p.length - (13 + p.length - 4) = 4 by omega,
      show 13 + p.length - 4 = p.length + 9 by omega]
    simp [bytes32]
  simp only [frameFields, hlen, hp, hc, h32]
  simp only [hb, slice, List.getD_cons_zero, List.getD_cons_succ, List.drop_succ_cons, List.drop_zero, Nat.reduceSub,
    List.take_succ_cons, List.take_zero]
  have e1 := h16 l
  have e2 := h16 q
  have e3 := h16 h
  simp only [bytes16] at e1 e2 e3
  simp only [e1, e2, e3]

/-- An input of at least 13 bytes is the wire bytes of its fields (R42, R43; 42_frame_decode.md R81). -/
theorem frameBytes_frameFields (input : List Byte) (h : 13 ≤ input.length) : frameBytes (frameFields input) = input := by
  match input, h with
  | a :: b :: l0 :: l1 :: t :: q0 :: q1 :: h0 :: h1 :: rest, h =>
    obtain ⟨p, tail, rfl, ht⟩ : ∃ p tail, rest = p ++ tail ∧ tail.length = 4 := by
      simp only [List.length_cons] at h
      exact ⟨rest.take (rest.length - 4), rest.drop (rest.length - 4), (List.take_append_drop _ _).symm, by
        rw [List.length_drop]; omega⟩
    match tail, ht with
    | [c0, c1, c2, c3], _ =>
      have hp : slice (a :: b :: l0 :: l1 :: t :: q0 :: q1 :: h0 :: h1 :: (p ++ [c0, c1, c2, c3])) 9
          (p.length + 13 - 4) = p := by
        rw [slice, show p.length + 13 - 4 - 9 = p.length by omega]
        simp
      have hc : slice (a :: b :: l0 :: l1 :: t :: q0 :: q1 :: h0 :: h1 :: (p ++ [c0, c1, c2, c3]))
          (p.length + 13 - 4) (p.length + 13) = [c0, c1, c2, c3] := by
        rw [slice, show p.length + 13 - (p.length + 13 - 4) = 4 by omega, show p.length + 13 - 4 = p.length + 9 by omega]
        simp
      have hl : (a :: b :: l0 :: l1 :: t :: q0 :: q1 :: h0 :: h1 :: (p ++ [c0, c1, c2, c3])).length = p.length + 13 := by
        simp
      simp only [frameFields, hl, hp, hc, frameBytes, headerBytes, bytes32_le32]
      simp [slice, bytes16_le16]

/-- The command word as a number (30_encoding.md R54). -/
theorem commandWord_toNat (op ft : Byte) (seq : Half) :
    (commandWord op ft seq).toNat = op.toNat + 256 * ft.toNat + 65536 * seq.toNat := by
  have ho := op.isLt
  have hf := ft.isLt
  have h : (ft ++ op).toNat = op.toNat + 256 * ft.toNat := by
    rw [BitVec.toNat_append, Nat.shiftLeft_eq, Nat.mul_comm, ← Nat.two_pow_add_eq_or_of_lt ho]; omega
  rw [commandWord, BitVec.append_assoc, BitVec.toNat_cast, BitVec.toNat_append, h, Nat.shiftLeft_eq, Nat.mul_comm,
    ← Nat.two_pow_add_eq_or_of_lt (by omega)]
  omega

/-- The wire bytes of a typed frame (the frame rows of the opcode table). -/
theorem length_typedFrameBytes (k : Config) (t : Byte) (l q h : Half) (p : List Byte) (c : Word) :
    (typedFrameBytes k t l q h p c).length = 13 + p.length := length_frameBytes _

end Sys2Proof.Machine
end

