-- ==== Sys2Proof/Laws/State.lean ====
section
/-! SUPPORT. One lemma per field of `State` per update of Machine/Ops.lean, so that no proof unfolds a record update. -/

namespace Sys2Proof.Machine

@[simp] theorem State.setStatus_cfg (v : Byte) (s : State) : (s.setStatus v).cfg = s.cfg := rfl
@[simp] theorem State.setStatus_status (v : Byte) (s : State) : (s.setStatus v).status = v := rfl
@[simp] theorem State.setStatus_crc16Out (v : Byte) (s : State) : (s.setStatus v).crc16Out = s.crc16Out := rfl
@[simp] theorem State.setStatus_crc32Out (v : Byte) (s : State) : (s.setStatus v).crc32Out = s.crc32Out := rfl
@[simp] theorem State.setStatus_fStart (v : Byte) (s : State) : (s.setStatus v).fStart = s.fStart := rfl
@[simp] theorem State.setStatus_fVersion (v : Byte) (s : State) : (s.setStatus v).fVersion = s.fVersion := rfl
@[simp] theorem State.setStatus_fLength (v : Byte) (s : State) : (s.setStatus v).fLength = s.fLength := rfl
@[simp] theorem State.setStatus_fType (v : Byte) (s : State) : (s.setStatus v).fType = s.fType := rfl
@[simp] theorem State.setStatus_fSeq (v : Byte) (s : State) : (s.setStatus v).fSeq = s.fSeq := rfl
@[simp] theorem State.setStatus_fHcrc (v : Byte) (s : State) : (s.setStatus v).fHcrc = s.fHcrc := rfl
@[simp] theorem State.setStatus_fFcrc (v : Byte) (s : State) : (s.setStatus v).fFcrc = s.fFcrc := rfl
@[simp] theorem State.setStatus_olen (v : Byte) (s : State) : (s.setStatus v).olen = s.olen := rfl
@[simp] theorem State.setStatus_obuf (v : Byte) (s : State) : (s.setStatus v).obuf = s.obuf := rfl
@[simp] theorem State.setStatus_r16 (v : Byte) (s : State) : (s.setStatus v).r16 = s.r16 := rfl
@[simp] theorem State.setStatus_r32 (v : Byte) (s : State) : (s.setStatus v).r32 = s.r32 := rfl
@[simp] theorem State.setStatus_idx (v : Byte) (s : State) : (s.setStatus v).idx = s.idx := rfl
@[simp] theorem State.setStatus_freeCount (v : Byte) (s : State) : (s.setStatus v).freeCount = s.freeCount := rfl
@[simp] theorem State.setStatus_pending (v : Byte) (s : State) : (s.setStatus v).pending = s.pending := rfl
@[simp] theorem State.setStatus_received (v : Byte) (s : State) : (s.setStatus v).received = s.received := rfl

@[simp] theorem State.setCrc16Out_cfg (v : Half) (s : State) : (s.setCrc16Out v).cfg = s.cfg := rfl
@[simp] theorem State.setCrc16Out_status (v : Half) (s : State) : (s.setCrc16Out v).status = s.status := rfl
@[simp] theorem State.setCrc16Out_crc16Out (v : Half) (s : State) : (s.setCrc16Out v).crc16Out = v := rfl
@[simp] theorem State.setCrc16Out_crc32Out (v : Half) (s : State) : (s.setCrc16Out v).crc32Out = s.crc32Out := rfl
@[simp] theorem State.setCrc16Out_fStart (v : Half) (s : State) : (s.setCrc16Out v).fStart = s.fStart := rfl
@[simp] theorem State.setCrc16Out_fVersion (v : Half) (s : State) : (s.setCrc16Out v).fVersion = s.fVersion := rfl
@[simp] theorem State.setCrc16Out_fLength (v : Half) (s : State) : (s.setCrc16Out v).fLength = s.fLength := rfl
@[simp] theorem State.setCrc16Out_fType (v : Half) (s : State) : (s.setCrc16Out v).fType = s.fType := rfl
@[simp] theorem State.setCrc16Out_fSeq (v : Half) (s : State) : (s.setCrc16Out v).fSeq = s.fSeq := rfl
@[simp] theorem State.setCrc16Out_fHcrc (v : Half) (s : State) : (s.setCrc16Out v).fHcrc = s.fHcrc := rfl
@[simp] theorem State.setCrc16Out_fFcrc (v : Half) (s : State) : (s.setCrc16Out v).fFcrc = s.fFcrc := rfl
@[simp] theorem State.setCrc16Out_olen (v : Half) (s : State) : (s.setCrc16Out v).olen = s.olen := rfl
@[simp] theorem State.setCrc16Out_obuf (v : Half) (s : State) : (s.setCrc16Out v).obuf = s.obuf := rfl
@[simp] theorem State.setCrc16Out_r16 (v : Half) (s : State) : (s.setCrc16Out v).r16 = s.r16 := rfl
@[simp] theorem State.setCrc16Out_r32 (v : Half) (s : State) : (s.setCrc16Out v).r32 = s.r32 := rfl
@[simp] theorem State.setCrc16Out_idx (v : Half) (s : State) : (s.setCrc16Out v).idx = s.idx := rfl
@[simp] theorem State.setCrc16Out_freeCount (v : Half) (s : State) : (s.setCrc16Out v).freeCount = s.freeCount := rfl
@[simp] theorem State.setCrc16Out_pending (v : Half) (s : State) : (s.setCrc16Out v).pending = s.pending := rfl
@[simp] theorem State.setCrc16Out_received (v : Half) (s : State) : (s.setCrc16Out v).received = s.received := rfl

@[simp] theorem State.setCrc32Out_cfg (v : Word) (s : State) : (s.setCrc32Out v).cfg = s.cfg := rfl
@[simp] theorem State.setCrc32Out_status (v : Word) (s : State) : (s.setCrc32Out v).status = s.status := rfl
@[simp] theorem State.setCrc32Out_crc16Out (v : Word) (s : State) : (s.setCrc32Out v).crc16Out = s.crc16Out := rfl
@[simp] theorem State.setCrc32Out_crc32Out (v : Word) (s : State) : (s.setCrc32Out v).crc32Out = v := rfl
@[simp] theorem State.setCrc32Out_fStart (v : Word) (s : State) : (s.setCrc32Out v).fStart = s.fStart := rfl
@[simp] theorem State.setCrc32Out_fVersion (v : Word) (s : State) : (s.setCrc32Out v).fVersion = s.fVersion := rfl
@[simp] theorem State.setCrc32Out_fLength (v : Word) (s : State) : (s.setCrc32Out v).fLength = s.fLength := rfl
@[simp] theorem State.setCrc32Out_fType (v : Word) (s : State) : (s.setCrc32Out v).fType = s.fType := rfl
@[simp] theorem State.setCrc32Out_fSeq (v : Word) (s : State) : (s.setCrc32Out v).fSeq = s.fSeq := rfl
@[simp] theorem State.setCrc32Out_fHcrc (v : Word) (s : State) : (s.setCrc32Out v).fHcrc = s.fHcrc := rfl
@[simp] theorem State.setCrc32Out_fFcrc (v : Word) (s : State) : (s.setCrc32Out v).fFcrc = s.fFcrc := rfl
@[simp] theorem State.setCrc32Out_olen (v : Word) (s : State) : (s.setCrc32Out v).olen = s.olen := rfl
@[simp] theorem State.setCrc32Out_obuf (v : Word) (s : State) : (s.setCrc32Out v).obuf = s.obuf := rfl
@[simp] theorem State.setCrc32Out_r16 (v : Word) (s : State) : (s.setCrc32Out v).r16 = s.r16 := rfl
@[simp] theorem State.setCrc32Out_r32 (v : Word) (s : State) : (s.setCrc32Out v).r32 = s.r32 := rfl
@[simp] theorem State.setCrc32Out_idx (v : Word) (s : State) : (s.setCrc32Out v).idx = s.idx := rfl
@[simp] theorem State.setCrc32Out_freeCount (v : Word) (s : State) : (s.setCrc32Out v).freeCount = s.freeCount := rfl
@[simp] theorem State.setCrc32Out_pending (v : Word) (s : State) : (s.setCrc32Out v).pending = s.pending := rfl
@[simp] theorem State.setCrc32Out_received (v : Word) (s : State) : (s.setCrc32Out v).received = s.received := rfl

@[simp] theorem State.storeOutput_cfg (bytes : List Byte) (s : State) : (s.storeOutput bytes).cfg = s.cfg := rfl
@[simp] theorem State.storeOutput_status (bytes : List Byte) (s : State) : (s.storeOutput bytes).status = s.status := rfl
@[simp] theorem State.storeOutput_crc16Out (bytes : List Byte) (s : State) : (s.storeOutput bytes).crc16Out = s.crc16Out := rfl
@[simp] theorem State.storeOutput_crc32Out (bytes : List Byte) (s : State) : (s.storeOutput bytes).crc32Out = s.crc32Out := rfl
@[simp] theorem State.storeOutput_fStart (bytes : List Byte) (s : State) : (s.storeOutput bytes).fStart = s.fStart := rfl
@[simp] theorem State.storeOutput_fVersion (bytes : List Byte) (s : State) : (s.storeOutput bytes).fVersion = s.fVersion := rfl
@[simp] theorem State.storeOutput_fLength (bytes : List Byte) (s : State) : (s.storeOutput bytes).fLength = s.fLength := rfl
@[simp] theorem State.storeOutput_fType (bytes : List Byte) (s : State) : (s.storeOutput bytes).fType = s.fType := rfl
@[simp] theorem State.storeOutput_fSeq (bytes : List Byte) (s : State) : (s.storeOutput bytes).fSeq = s.fSeq := rfl
@[simp] theorem State.storeOutput_fHcrc (bytes : List Byte) (s : State) : (s.storeOutput bytes).fHcrc = s.fHcrc := rfl
@[simp] theorem State.storeOutput_fFcrc (bytes : List Byte) (s : State) : (s.storeOutput bytes).fFcrc = s.fFcrc := rfl
@[simp] theorem State.storeOutput_olen (bytes : List Byte) (s : State) : (s.storeOutput bytes).olen = BitVec.ofNat 11 bytes.length := rfl
@[simp] theorem State.storeOutput_obuf (bytes : List Byte) (s : State) : (s.storeOutput bytes).obuf = Memory.writeBytes [] 0 bytes := rfl
@[simp] theorem State.storeOutput_r16 (bytes : List Byte) (s : State) : (s.storeOutput bytes).r16 = s.r16 := rfl
@[simp] theorem State.storeOutput_r32 (bytes : List Byte) (s : State) : (s.storeOutput bytes).r32 = s.r32 := rfl
@[simp] theorem State.storeOutput_idx (bytes : List Byte) (s : State) : (s.storeOutput bytes).idx = s.idx := rfl
@[simp] theorem State.storeOutput_freeCount (bytes : List Byte) (s : State) : (s.storeOutput bytes).freeCount = s.freeCount := rfl
@[simp] theorem State.storeOutput_pending (bytes : List Byte) (s : State) : (s.storeOutput bytes).pending = s.pending := rfl
@[simp] theorem State.storeOutput_received (bytes : List Byte) (s : State) : (s.storeOutput bytes).received = s.received := rfl

@[simp] theorem State.storeFrame_cfg (f : Frame) (s : State) : (s.storeFrame f).cfg = s.cfg := rfl
@[simp] theorem State.storeFrame_status (f : Frame) (s : State) : (s.storeFrame f).status = s.status := rfl
@[simp] theorem State.storeFrame_crc16Out (f : Frame) (s : State) : (s.storeFrame f).crc16Out = s.crc16Out := rfl
@[simp] theorem State.storeFrame_crc32Out (f : Frame) (s : State) : (s.storeFrame f).crc32Out = s.crc32Out := rfl
@[simp] theorem State.storeFrame_fStart (f : Frame) (s : State) : (s.storeFrame f).fStart = f.start := rfl
@[simp] theorem State.storeFrame_fVersion (f : Frame) (s : State) : (s.storeFrame f).fVersion = f.protocolVersion := rfl
@[simp] theorem State.storeFrame_fLength (f : Frame) (s : State) : (s.storeFrame f).fLength = f.length := rfl
@[simp] theorem State.storeFrame_fType (f : Frame) (s : State) : (s.storeFrame f).fType = f.frameType := rfl
@[simp] theorem State.storeFrame_fSeq (f : Frame) (s : State) : (s.storeFrame f).fSeq = f.sequence := rfl
@[simp] theorem State.storeFrame_fHcrc (f : Frame) (s : State) : (s.storeFrame f).fHcrc = f.headerCrc16 := rfl
@[simp] theorem State.storeFrame_fFcrc (f : Frame) (s : State) : (s.storeFrame f).fFcrc = f.frameCrc32 := rfl
@[simp] theorem State.storeFrame_olen (f : Frame) (s : State) : (s.storeFrame f).olen = s.olen := rfl
@[simp] theorem State.storeFrame_obuf (f : Frame) (s : State) : (s.storeFrame f).obuf = s.obuf := rfl
@[simp] theorem State.storeFrame_r16 (f : Frame) (s : State) : (s.storeFrame f).r16 = s.r16 := rfl
@[simp] theorem State.storeFrame_r32 (f : Frame) (s : State) : (s.storeFrame f).r32 = s.r32 := rfl
@[simp] theorem State.storeFrame_idx (f : Frame) (s : State) : (s.storeFrame f).idx = s.idx := rfl
@[simp] theorem State.storeFrame_freeCount (f : Frame) (s : State) : (s.storeFrame f).freeCount = s.freeCount := rfl
@[simp] theorem State.storeFrame_pending (f : Frame) (s : State) : (s.storeFrame f).pending = s.pending := rfl
@[simp] theorem State.storeFrame_received (f : Frame) (s : State) : (s.storeFrame f).received = s.received := rfl

@[simp] theorem State.usedCrc16_cfg (s : State) : (s.usedCrc16).cfg = s.cfg := rfl
@[simp] theorem State.usedCrc16_status (s : State) : (s.usedCrc16).status = s.status := rfl
@[simp] theorem State.usedCrc16_crc16Out (s : State) : (s.usedCrc16).crc16Out = s.crc16Out := rfl
@[simp] theorem State.usedCrc16_crc32Out (s : State) : (s.usedCrc16).crc32Out = s.crc32Out := rfl
@[simp] theorem State.usedCrc16_fStart (s : State) : (s.usedCrc16).fStart = s.fStart := rfl
@[simp] theorem State.usedCrc16_fVersion (s : State) : (s.usedCrc16).fVersion = s.fVersion := rfl
@[simp] theorem State.usedCrc16_fLength (s : State) : (s.usedCrc16).fLength = s.fLength := rfl
@[simp] theorem State.usedCrc16_fType (s : State) : (s.usedCrc16).fType = s.fType := rfl
@[simp] theorem State.usedCrc16_fSeq (s : State) : (s.usedCrc16).fSeq = s.fSeq := rfl
@[simp] theorem State.usedCrc16_fHcrc (s : State) : (s.usedCrc16).fHcrc = s.fHcrc := rfl
@[simp] theorem State.usedCrc16_fFcrc (s : State) : (s.usedCrc16).fFcrc = s.fFcrc := rfl
@[simp] theorem State.usedCrc16_olen (s : State) : (s.usedCrc16).olen = s.olen := rfl
@[simp] theorem State.usedCrc16_obuf (s : State) : (s.usedCrc16).obuf = s.obuf := rfl
@[simp] theorem State.usedCrc16_r16 (s : State) : (s.usedCrc16).r16 = Config.idleR16 s.freeCount := rfl
@[simp] theorem State.usedCrc16_r32 (s : State) : (s.usedCrc16).r32 = s.r32 := rfl
@[simp] theorem State.usedCrc16_idx (s : State) : (s.usedCrc16).idx = Config.idleIdx s.freeCount := rfl
@[simp] theorem State.usedCrc16_freeCount (s : State) : (s.usedCrc16).freeCount = s.freeCount + 1 := rfl
@[simp] theorem State.usedCrc16_pending (s : State) : (s.usedCrc16).pending = s.pending := rfl
@[simp] theorem State.usedCrc16_received (s : State) : (s.usedCrc16).received = s.received := rfl

@[simp] theorem State.usedCrc32_cfg (s : State) : (s.usedCrc32).cfg = s.cfg := rfl
@[simp] theorem State.usedCrc32_status (s : State) : (s.usedCrc32).status = s.status := rfl
@[simp] theorem State.usedCrc32_crc16Out (s : State) : (s.usedCrc32).crc16Out = s.crc16Out := rfl
@[simp] theorem State.usedCrc32_crc32Out (s : State) : (s.usedCrc32).crc32Out = s.crc32Out := rfl
@[simp] theorem State.usedCrc32_fStart (s : State) : (s.usedCrc32).fStart = s.fStart := rfl
@[simp] theorem State.usedCrc32_fVersion (s : State) : (s.usedCrc32).fVersion = s.fVersion := rfl
@[simp] theorem State.usedCrc32_fLength (s : State) : (s.usedCrc32).fLength = s.fLength := rfl
@[simp] theorem State.usedCrc32_fType (s : State) : (s.usedCrc32).fType = s.fType := rfl
@[simp] theorem State.usedCrc32_fSeq (s : State) : (s.usedCrc32).fSeq = s.fSeq := rfl
@[simp] theorem State.usedCrc32_fHcrc (s : State) : (s.usedCrc32).fHcrc = s.fHcrc := rfl
@[simp] theorem State.usedCrc32_fFcrc (s : State) : (s.usedCrc32).fFcrc = s.fFcrc := rfl
@[simp] theorem State.usedCrc32_olen (s : State) : (s.usedCrc32).olen = s.olen := rfl
@[simp] theorem State.usedCrc32_obuf (s : State) : (s.usedCrc32).obuf = s.obuf := rfl
@[simp] theorem State.usedCrc32_r16 (s : State) : (s.usedCrc32).r16 = s.r16 := rfl
@[simp] theorem State.usedCrc32_r32 (s : State) : (s.usedCrc32).r32 = Config.idleR32 s.freeCount := rfl
@[simp] theorem State.usedCrc32_idx (s : State) : (s.usedCrc32).idx = Config.idleIdx s.freeCount := rfl
@[simp] theorem State.usedCrc32_freeCount (s : State) : (s.usedCrc32).freeCount = s.freeCount + 1 := rfl
@[simp] theorem State.usedCrc32_pending (s : State) : (s.usedCrc32).pending = s.pending := rfl
@[simp] theorem State.usedCrc32_received (s : State) : (s.usedCrc32).received = s.received := rfl

@[simp] theorem State.give_cfg (v : Word) (s : State) : (s.give v).cfg = s.cfg := rfl
@[simp] theorem State.give_status (v : Word) (s : State) : (s.give v).status = s.status := rfl
@[simp] theorem State.give_crc16Out (v : Word) (s : State) : (s.give v).crc16Out = s.crc16Out := rfl
@[simp] theorem State.give_crc32Out (v : Word) (s : State) : (s.give v).crc32Out = s.crc32Out := rfl
@[simp] theorem State.give_fStart (v : Word) (s : State) : (s.give v).fStart = s.fStart := rfl
@[simp] theorem State.give_fVersion (v : Word) (s : State) : (s.give v).fVersion = s.fVersion := rfl
@[simp] theorem State.give_fLength (v : Word) (s : State) : (s.give v).fLength = s.fLength := rfl
@[simp] theorem State.give_fType (v : Word) (s : State) : (s.give v).fType = s.fType := rfl
@[simp] theorem State.give_fSeq (v : Word) (s : State) : (s.give v).fSeq = s.fSeq := rfl
@[simp] theorem State.give_fHcrc (v : Word) (s : State) : (s.give v).fHcrc = s.fHcrc := rfl
@[simp] theorem State.give_fFcrc (v : Word) (s : State) : (s.give v).fFcrc = s.fFcrc := rfl
@[simp] theorem State.give_olen (v : Word) (s : State) : (s.give v).olen = s.olen := rfl
@[simp] theorem State.give_obuf (v : Word) (s : State) : (s.give v).obuf = s.obuf := rfl
@[simp] theorem State.give_r16 (v : Word) (s : State) : (s.give v).r16 = s.r16 := rfl
@[simp] theorem State.give_r32 (v : Word) (s : State) : (s.give v).r32 = s.r32 := rfl
@[simp] theorem State.give_idx (v : Word) (s : State) : (s.give v).idx = s.idx := rfl
@[simp] theorem State.give_freeCount (v : Word) (s : State) : (s.give v).freeCount = s.freeCount := rfl
@[simp] theorem State.give_pending (v : Word) (s : State) : (s.give v).pending = s.pending := rfl
@[simp] theorem State.give_received (v : Word) (s : State) : (s.give v).received = v :: s.received := rfl

@[simp] theorem State.resetBlock_cfg (s : State) : s.resetBlock.cfg = s.cfg := rfl
@[simp] theorem State.resetBlock_status (s : State) : s.resetBlock.status = 0 := rfl
@[simp] theorem State.resetBlock_crc16Out (s : State) : s.resetBlock.crc16Out = 0 := rfl
@[simp] theorem State.resetBlock_crc32Out (s : State) : s.resetBlock.crc32Out = 0 := rfl
@[simp] theorem State.resetBlock_fStart (s : State) : s.resetBlock.fStart = 0 := rfl
@[simp] theorem State.resetBlock_fVersion (s : State) : s.resetBlock.fVersion = 0 := rfl
@[simp] theorem State.resetBlock_fLength (s : State) : s.resetBlock.fLength = 0 := rfl
@[simp] theorem State.resetBlock_fType (s : State) : s.resetBlock.fType = 0 := rfl
@[simp] theorem State.resetBlock_fSeq (s : State) : s.resetBlock.fSeq = 0 := rfl
@[simp] theorem State.resetBlock_fHcrc (s : State) : s.resetBlock.fHcrc = 0 := rfl
@[simp] theorem State.resetBlock_fFcrc (s : State) : s.resetBlock.fFcrc = 0 := rfl
@[simp] theorem State.resetBlock_olen (s : State) : s.resetBlock.olen = 0 := rfl
@[simp] theorem State.resetBlock_obuf (s : State) : s.resetBlock.obuf = [] := rfl
@[simp] theorem State.resetBlock_r16 (s : State) : s.resetBlock.r16 = 0 := rfl
@[simp] theorem State.resetBlock_r32 (s : State) : s.resetBlock.r32 = 0 := rfl
@[simp] theorem State.resetBlock_idx (s : State) : s.resetBlock.idx = 0 := rfl
@[simp] theorem State.resetBlock_freeCount (s : State) : s.resetBlock.freeCount = s.freeCount := rfl
@[simp] theorem State.resetBlock_pending (s : State) : s.resetBlock.pending = s.pending := rfl
@[simp] theorem State.resetBlock_received (s : State) : s.resetBlock.received = s.received := rfl

@[simp] theorem State.reset_cfg : State.reset.cfg = Config.livoxDefault := rfl
@[simp] theorem State.reset_status : State.reset.status = 0 := rfl
@[simp] theorem State.reset_crc16Out : State.reset.crc16Out = 0 := rfl
@[simp] theorem State.reset_crc32Out : State.reset.crc32Out = 0 := rfl
@[simp] theorem State.reset_fStart : State.reset.fStart = 0 := rfl
@[simp] theorem State.reset_fVersion : State.reset.fVersion = 0 := rfl
@[simp] theorem State.reset_fLength : State.reset.fLength = 0 := rfl
@[simp] theorem State.reset_fType : State.reset.fType = 0 := rfl
@[simp] theorem State.reset_fSeq : State.reset.fSeq = 0 := rfl
@[simp] theorem State.reset_fHcrc : State.reset.fHcrc = 0 := rfl
@[simp] theorem State.reset_fFcrc : State.reset.fFcrc = 0 := rfl
@[simp] theorem State.reset_olen : State.reset.olen = 0 := rfl
@[simp] theorem State.reset_obuf : State.reset.obuf = [] := rfl
@[simp] theorem State.reset_r16 : State.reset.r16 = 0 := rfl
@[simp] theorem State.reset_r32 : State.reset.r32 = 0 := rfl
@[simp] theorem State.reset_idx : State.reset.idx = 0 := rfl
@[simp] theorem State.reset_freeCount : State.reset.freeCount = 0 := rfl
@[simp] theorem State.reset_pending : State.reset.pending = [] := rfl
@[simp] theorem State.reset_received : State.reset.received = [] := rfl

end Sys2Proof.Machine
end

