-- ==== Sys2Proof/Laws/Ops.lean ====
section
/-! SUPPORT. The laws of Machine/Ops.lean: what a read of `OBUF` gives after a write, that every memory operation keeps the
canonical form, and what the shared operations answer. -/

namespace Sys2Proof.Machine

@[simp] theorem Memory.read_nil (a : Nat) : Memory.read [] a = none := rfl

theorem Memory.read_write (m : Memory) (a : Nat) (b : Byte) (x : Nat) :
    (m.write a b).read x = if x = a then some b else m.read x := by
  induction m with
  | nil => by_cases h : x = a <;> simp [Memory.write, Memory.read, h, Memory.unlisted]
  | cons c rest ih =>
    obtain ⟨y, d⟩ := c
    simp only [Memory.write]
    split
    · by_cases h : x = a <;> simp [Memory.read, h]
    · split
      · subst_vars
        by_cases h : x = y <;> simp [Memory.read, h]
      · by_cases hx : x = y
        · subst hx
          rename_i _ h2
          simp [Memory.read, Ne.symm h2]
        · simp [Memory.read, hx, ih]

theorem Memory.read_writeBytes (m : Memory) (a : Nat) (bytes : List Byte) (x : Nat) :
    (m.writeBytes a bytes).read x = if a ≤ x ∧ x < a + bytes.length then bytes[x - a]? else m.read x := by
  induction bytes generalizing a with
  | nil => simp [Memory.writeBytes]
  | cons b bs ih =>
    simp only [Memory.writeBytes, Memory.read_write, ih, List.length_cons]
    by_cases hx : x = a
    · subst hx; simp
    · by_cases h : a + 1 ≤ x ∧ x < a + 1 + bs.length
      · rw [if_neg hx, if_pos h, if_pos (by omega), show x - a = (x - (a + 1)) + 1 by omega, List.getElem?_cons_succ]
      · rw [if_neg hx, if_neg h, if_neg (by omega)]

/-- The keys a write leaves: the written one and those that were there. -/
theorem Memory.mem_keys_write (m : Memory) (a : Nat) (b : Byte) (x : Nat)
    (h : x ∈ (m.write a b).map Prod.fst) : x = a ∨ x ∈ m.map Prod.fst := by
  induction m with
  | nil => simpa [Memory.write] using h
  | cons c rest ih =>
    obtain ⟨y, d⟩ := c
    simp only [Memory.write] at h
    split at h
    · simpa using h
    · split at h
      · simp only [List.map_cons, List.mem_cons] at h ⊢
        tauto
      · simp only [List.map_cons, List.mem_cons] at h ⊢
        rcases h with h | h
        · exact .inr (.inl h)
        · rcases ih h with h | h
          · exact .inl h
          · exact .inr (.inr h)

theorem Memory.wf_write (m : Memory) (a : Nat) (b : Byte) (h : m.wf) : (m.write a b).wf := by
  induction m with
  | nil => simp [Memory.write, Memory.wf]
  | cons c rest ih =>
    obtain ⟨y, d⟩ := c
    have hr : Memory.wf rest := (List.pairwise_cons.mp h).2
    have hy : ∀ z ∈ rest.map Prod.fst, y < z := (List.pairwise_cons.mp h).1
    simp only [Memory.write]
    split
    · rename_i hlt
      refine List.pairwise_cons.mpr ⟨fun z hz => ?_, h⟩
      simp only [List.map_cons, List.mem_cons] at hz
      rcases hz with rfl | hz
      · exact hlt
      · exact Nat.lt_trans hlt (hy z hz)
    · split
      · subst_vars
        exact List.pairwise_cons.mpr ⟨hy, hr⟩
      · refine List.pairwise_cons.mpr ⟨fun z hz => ?_, ih hr⟩
        rcases Memory.mem_keys_write rest a b z hz with rfl | hz
        · show y < z; omega
        · exact hy z hz

theorem Memory.wf_writeBytes (m : Memory) (a : Nat) (bytes : List Byte) (h : m.wf) : (m.writeBytes a bytes).wf := by
  induction bytes generalizing a with
  | nil => exact h
  | cons b bs ih => exact Memory.wf_write _ _ _ (ih _)

theorem Memory.wf_memWrite (m : Memory) (i k v : Nat) (h : m.wf) : (m.memWrite i k v).wf := Memory.wf_writeBytes _ _ _ h

theorem Memory.wf_reset : State.reset.obuf.wf := List.Pairwise.nil

/-- A buffer written from empty lists exactly the written indices. -/
theorem Memory.keys_writeBytes_nil (a : Nat) (bytes : List Byte) :
    (Memory.writeBytes [] a bytes).map Prod.fst = List.range' a bytes.length := by
  induction bytes generalizing a with
  | nil => rfl
  | cons b bs ih =>
    have h := ih (a + 1)
    rw [Memory.writeBytes, List.length_cons, List.range'_succ]
    generalize Memory.writeBytes [] (a + 1) bs = m at h ⊢
    cases m with
    | nil => simpa [Memory.write] using h
    | cons c rest =>
      obtain ⟨y, d⟩ := c
      have hy : a < y := by
        have : y ∈ List.range' (a + 1) bs.length := by rw [← h]; simp
        have := (List.mem_range'_1.mp this).1
        omega
      simp [Memory.write, hy, ← h]

@[simp] theorem storeOutput_read (bytes : List Byte) (s : State) (a : Nat) :
    (s.storeOutput bytes).obuf.read a = bytes[a]? := by
  simp only [State.storeOutput_obuf, Memory.read_writeBytes]
  split
  · simp
  · rw [List.getElem?_eq_none (by omega)]; rfl

/-- `OBUF[0:n]` when its first `n` bytes are those of a list of `n` bytes. -/
theorem Memory.bytes_eq (m : Memory) (l : List Byte) (h : ∀ a, m.read a = l[a]?) : m.bytes l.length = l := by
  have hf : m.read = fun a => l[a]? := funext h
  rw [Memory.bytes, hf]
  induction l using List.reverseRecOn with
  | nil => rfl
  | append_singleton l b ih =>
    rw [List.length_append, List.length_singleton, List.range_succ, List.filterMap_append]
    have hcongr : (List.range l.length).filterMap (fun a => (l ++ [b])[a]?) =
        (List.range l.length).filterMap (fun a => l[a]?) :=
      List.filterMap_congr fun a ha => List.getElem?_append_left (List.mem_range.mp ha)
    have hl : (List.range l.length).filterMap (fun a => l[a]?) = l := by
      clear h hf ih hcongr
      induction l with
      | nil => rfl
      | cons c l ih =>
        rw [List.length_cons, List.range_succ_eq_map, List.filterMap_cons_some (b := c) (by simp), List.filterMap_map]
        simpa [Function.comp_def] using ih
    rw [hcongr, hl]
    simp

theorem storeOutput_output (bytes : List Byte) (s : State) (h : bytes.length < 2 ^ 11) :
    (s.storeOutput bytes).output = bytes := by
  have hl : (BitVec.ofNat 11 bytes.length).toNat = bytes.length := by
    rw [BitVec.toNat_ofNat]; exact Nat.mod_eq_of_lt h
  rw [State.output, State.storeOutput_olen, hl]
  exact Memory.bytes_eq _ _ (storeOutput_read bytes s)

/-- A success answers one next state: the given registers with `STATUS` 0. -/
theorem succeed_next {s t : State} (h : succeed s = .next t) : t = s.setStatus statusOk := by
  rw [succeed] at h; cases h; rfl

/-- An error answers one next state: only `STATUS` is written. -/
theorem raise_next {e : OpError} {s t : State} (h : raise e s = .next t) : t = s.setStatus (errStatus e) := by
  rw [raise] at h; cases h; rfl

/-- All a client's read of `OBUF[i]` can do. -/
theorem clientReadObuf_cases (i : Nat) (s : State) :
    (i < s.olen.toNat ∧ ∃ b, s.obuf.read i = some b ∧ clientReadObuf i s = .next (s.give (b.setWidth 32))) ∨
    (i < s.olen.toNat ∧ s.obuf.read i = none ∧ clientReadObuf i s = .fault (.obufByteAbsent i)) ∨
    (s.olen.toNat ≤ i ∧ clientReadObuf i s = .refused (.obufUnreadable i)) := by
  unfold clientReadObuf
  by_cases h : i < s.olen.toNat
  · cases hr : s.obuf.read i with
    | some b => exact .inl ⟨h, b, rfl, by simp [h]⟩
    | none => exact .inr (.inl ⟨h, rfl, by simp [h]⟩)
  · exact .inr (.inr ⟨by omega, by simp [h]⟩)

end Sys2Proof.Machine
end

