-- ==== Sys2Proof/Laws/Codec.lean ====
section
/-! SUPPORT. One lemma for each shared operation of the CRC engine, the serializer, the deserializer and the client's port,
which says all it can answer. -/

namespace Sys2Proof.Machine

@[simp] theorem crcRun_nil {w : Nat} (p : CrcParams w) (reg : BitVec w) : crcRun p reg [] = reg := rfl

theorem crcRun_cons {w : Nat} (p : CrcParams w) (reg : BitVec w) (b : Byte) (data : List Byte) :
    crcRun p reg (b :: data) = crcRun p (crcByte p reg b) data := rfl

/-- Bit `i` of a reflected value (00_scope.md R11). -/
theorem reflect_getLsbD {w : Nat} (v : BitVec w) (i : Nat) : (reflect v).getLsbD i = v.getMsbD i :=
  BitVec.getLsbD_reverse

@[simp] theorem reflect_reflect {w : Nat} (v : BitVec w) : reflect (reflect v) = v := BitVec.reverse_reverse_eq

@[simp] theorem length_encodeHeader (c : Config) (ft : Byte) (seq : Half) (len : Nat) :
    (encodeHeader c ft seq len).length = 7 := rfl

@[simp] theorem length_encodePrefix (c : Config) (ft : Byte) (seq : Half) (payload : List Byte) :
    (encodePrefix c ft seq payload).length = 9 + payload.length := by
  simp [encodePrefix]; omega

/-- All `serialize` can answer (R73, R75). -/
theorem serialize_cases (c : Config) (ft : Byte) (seq : Half) (payload : List Byte) :
    (c.maxFrameLen < 13 + payload.length ∧ serialize c ft seq payload = .error .frameTooLargeSize) ∨
    (13 + payload.length ≤ c.maxFrameLen ∧ serialize c ft seq payload =
      .ok (encodePrefix c ft seq payload ++ bytes32 (crc32 c (encodePrefix c ft seq payload)))) := by
  unfold serialize
  by_cases h : c.maxFrameLen < Config.overhead + payload.length
  · exact .inl ⟨h, by rw [if_pos h]⟩
  · exact .inr ⟨Nat.le_of_not_lt h, by rw [if_neg h]⟩

/-- A frame ENCODE builds has `13 + n` bytes (R44). -/
theorem length_of_serialize {c : Config} {ft : Byte} {seq : Half} {payload frame : List Byte}
    (h : serialize c ft seq payload = .ok frame) : frame.length = 13 + payload.length := by
  rcases serialize_cases c ft seq payload with ⟨-, h'⟩ | ⟨-, h'⟩ <;> rw [h'] at h <;> cases h
  simp; omega

/-- All the operation ENCODE can do (R73, R76). -/
theorem runEncode_cases (ft : Byte) (seq : Half) (payload : List Byte) (s : State) :
    (s.cfg.maxFrameLen < 13 + payload.length ∧
      runEncode ft seq payload s = .next (s.usedCrc16.usedCrc32.setStatus (errStatus .frameTooLargeSize))) ∨
    (13 + payload.length ≤ s.cfg.maxFrameLen ∧ ∃ frame, serialize s.cfg ft seq payload = .ok frame ∧
      runEncode ft seq payload s = .next ((s.usedCrc16.usedCrc32.storeOutput frame).setStatus statusOk)) := by
  rcases serialize_cases s.cfg ft seq payload with ⟨hn, h⟩ | ⟨hn, h⟩
  · exact .inl ⟨hn, by simp only [runEncode, h, raise]⟩
  · exact .inr ⟨hn, _, h, by simp only [runEncode, h, succeed]⟩

/-- An input passes DECODE's checks on the frame itself (R84 to R87) exactly when each holds, and the answer is the frame
given. -/
theorem checkFrame_ok_iff (c : Config) (input : List Byte) (f g : Frame) :
    checkFrame c input f = .ok g ↔
      g = f ∧ crc16 c (slice input 0 7) = f.headerCrc16 ∧ crc32 c (slice input 0 (input.length - 4)) = f.frameCrc32 ∧
        f.start = c.startMarker ∧ f.protocolVersion = c.protocolVersion ∧ f.length.toNat ≤ c.maxFrameLen := by
  unfold checkFrame
  split_ifs with h1 h2 h3 h4 h5
  · exact ⟨nofun, fun h => absurd h.2.1 h1⟩
  · exact ⟨nofun, fun h => absurd h.2.2.1 h2⟩
  · exact ⟨nofun, fun h => absurd h.2.2.2.1 h3⟩
  · exact ⟨nofun, fun h => absurd h.2.2.2.2.1 h4⟩
  · exact ⟨nofun, fun h => absurd h.2.2.2.2.2 (Nat.not_le_of_lt h5)⟩
  · constructor
    · rintro ⟨⟩
      exact ⟨rfl, not_not.mp h1, not_not.mp h2, not_not.mp h3, not_not.mp h4, Nat.le_of_not_lt h5⟩
    · rintro ⟨rfl, -⟩
      rfl

/-- DECODE accepts an input exactly when its size is legal and its frame passes the checks (R80). -/
theorem deserialize_ok_iff (c : Config) (input : List Byte) (g : Frame) :
    deserialize c input = .ok g ↔
      13 ≤ input.length ∧ input.length ≤ c.maxFrameLen ∧ checkFrame c input (frameFields input) = .ok g := by
  unfold deserialize
  split_ifs with h1 h2
  · exact ⟨nofun, fun h => absurd h.2.1 (Nat.not_le_of_lt h1)⟩
  · exact ⟨nofun, fun h => absurd h.1 (Nat.not_le_of_lt h2)⟩
  · have h2' : 13 ≤ input.length := Nat.le_of_not_lt h2
    simp [h2', Nat.le_of_not_lt h1]

/-- All the operation DECODE can do (R89, R92). -/
theorem runDecode_cases (input : List Byte) (s : State) :
    (∃ e, deserialize s.cfg input = .error e ∧
      runDecode input s = .next (s.usedCrc16.usedCrc32.setStatus (errStatus e))) ∨
    (∃ f, deserialize s.cfg input = .ok f ∧ runDecode input s =
      .next (((s.usedCrc16.usedCrc32.storeFrame f).storeOutput f.payload).setStatus statusOk)) := by
  cases h : deserialize s.cfg input with
  | error e => exact .inl ⟨e, rfl, by simp only [runDecode, h, raise]⟩
  | ok f => exact .inr ⟨f, rfl, by simp only [runDecode, h, succeed]⟩

/-- All the decoder can answer, by opcode (30_encoding.md R48, R50). -/
theorem decode_cases (k : Config) (c : Command) :
    (c.op = 0x00 ∧ decode k c = .ok (.crc16 c.input)) ∨ (c.op = 0x01 ∧ decode k c = .ok (.crc32 c.input)) ∨
    (c.op = 0x02 ∧ decode k c = .ok (encodeForm k c.ft c.seq c.input)) ∨
    (c.op = 0x03 ∧ decode k c = .ok (decodeForm k c.input)) ∨
    (4 ≤ c.op.toNat ∧ decode k c = .error (.reservedOpcode c.op)) := by
  unfold decode
  split_ifs with h0 h1 h2 h3
  · exact .inl ⟨h0, rfl⟩
  · exact .inr (.inl ⟨h1, rfl⟩)
  · exact .inr (.inr (.inl ⟨h2, rfl⟩))
  · exact .inr (.inr (.inr (.inl ⟨h3, rfl⟩)))
  · refine .inr (.inr (.inr (.inr ⟨?_, rfl⟩)))
    generalize c.op = op at *
    have : op.toNat ≠ 0 := fun h => h0 (BitVec.eq_of_toNat_eq h)
    have : op.toNat ≠ 1 := fun h => h1 (BitVec.eq_of_toNat_eq h)
    have : op.toNat ≠ 2 := fun h => h2 (BitVec.eq_of_toNat_eq h)
    have : op.toNat ≠ 3 := fun h => h3 (BitVec.eq_of_toNat_eq h)
    omega

/-- All a client's command can do (R118, R99). -/
theorem issue_cases (c : Command) (s : State) :
    (∃ i, decode s.cfg c = .ok i ∧ issue c s = exec i s) ∨
    (∃ op, decode s.cfg c = .error (.reservedOpcode op) ∧ issue c s = .next (s.setStatus (errStatus .illegalOp))) := by
  unfold issue
  cases h : decode s.cfg c with
  | ok i => exact .inl ⟨i, rfl, rfl⟩
  | error r => exact .inr ⟨r.1, rfl, rfl⟩

end Sys2Proof.Machine
end

