-- ==== Sys2Proof/Laws/PerInstr.lean ====
section
/-! SUPPORT. A statement for each instruction, made per constructor: the encoder writes the bits that the instruction's row
of the opcode table fixes (30_encoding.md R48, R57), in the command word and, for a frame row, in the first 9 bytes of
the input. -/

namespace Sys2Proof.Laws.EncodesItsRow

open Sys2Proof.Machine

/-- Under every configuration the encoding of `i` matches the columns match and mask of its row. -/
def Statement (i : Instr) : Prop :=
  ∀ k : Config, (Sys2Proof.encode k i).cmd &&& (i.commandRow k).2 = (i.commandRow k).1 ∧
    List.zipWith (· &&& ·) ((Sys2Proof.encode k i).input.take 9) (i.frameRow k).2 = (i.frameRow k).1

/-- The low byte of a command word is its opcode (R47). -/
theorem commandWord_op (op ft : Byte) (seq : Half) : commandWord op ft seq &&& 0xFF = op.setWidth 32 := by
  have ho := op.isLt
  apply BitVec.eq_of_toNat_eq
  rw [BitVec.toNat_and, commandWord_toNat, BitVec.toNat_setWidth]
  exact (Nat.and_two_pow_sub_one_eq_mod _ 8).trans (by omega)

/-- The low half of a command word is its frame type and opcode (R47, R79). -/
theorem commandWord_ft_op (op ft : Byte) (seq : Half) : commandWord op ft seq &&& 0xFFFF = commandWord op ft 0 := by
  have ho := op.isLt
  have hf := ft.isLt
  apply BitVec.eq_of_toNat_eq
  rw [BitVec.toNat_and, commandWord_toNat, commandWord_toNat]
  exact (Nat.and_two_pow_sub_one_eq_mod _ 16).trans (by simp; omega)

/-- The first 9 bytes of a typed frame match its row (R57). -/
theorem typedFrameBytes_row (k : Config) (t : Byte) (l q h : Half) (p : List Byte) (c : Word) :
    List.zipWith (· &&& ·) ((typedFrameBytes k t l q h p c).take 9) (frameColumns k t).2 = (frameColumns k t).1 := by
  have h255 : ∀ b : Byte, b &&& 255#8 = b := fun _ => BitVec.and_allOnes
  simp [typedFrameBytes, frameColumns, frameBytes, headerBytes, bytes16, h255]

theorem crc16 (input : List Byte) : Statement (.crc16 input) := fun _ => ⟨commandWord_op _ _ _, List.zipWith_nil_right⟩

theorem crc32 (input : List Byte) : Statement (.crc32 input) := fun _ => ⟨commandWord_op _ _ _, List.zipWith_nil_right⟩

theorem encode (ft : Byte) (seq : Half) (payload : List Byte) : Statement (.encode ft seq payload) :=
  fun _ => ⟨commandWord_op _ _ _, List.zipWith_nil_right⟩

theorem decode (input : List Byte) : Statement (.decode input) := fun _ => ⟨commandWord_op _ _ _, List.zipWith_nil_right⟩

theorem encodeCmd (seq : Half) (payload : List Byte) : Statement (.encodeCmd seq payload) :=
  fun _ => ⟨commandWord_ft_op _ _ _, List.zipWith_nil_right⟩

theorem encodeAkn (seq : Half) (payload : List Byte) : Statement (.encodeAkn seq payload) :=
  fun _ => ⟨commandWord_ft_op _ _ _, List.zipWith_nil_right⟩

theorem encodeMsg (seq : Half) (payload : List Byte) : Statement (.encodeMsg seq payload) :=
  fun _ => ⟨commandWord_ft_op _ _ _, List.zipWith_nil_right⟩

theorem frameCmd (l q h : Half) (p : List Byte) (c : Word) : Statement (.frameCmd l q h p c) :=
  fun _ => ⟨commandWord_op _ _ _, typedFrameBytes_row _ _ _ _ _ _ _⟩

theorem frameAkn (l q h : Half) (p : List Byte) (c : Word) : Statement (.frameAkn l q h p c) :=
  fun _ => ⟨commandWord_op _ _ _, typedFrameBytes_row _ _ _ _ _ _ _⟩

theorem frameMsg (l q h : Half) (p : List Byte) (c : Word) : Statement (.frameMsg l q h p c) :=
  fun _ => ⟨commandWord_op _ _ _, typedFrameBytes_row _ _ _ _ _ _ _⟩

end Sys2Proof.Laws.EncodesItsRow
end

