-- ==== Sys2Proof/Laws/Step.lean ====
section
/-! SUPPORT. What one step can do (70_reset_and_hazards.md R117, R118), one case for each move of the client. -/

namespace Sys2Proof.Machine

/-- All one step can do, by the client's next move. -/
theorem step_cases (s : State) :
    (s.pending = [] ∧ step s = .next s) ∨
    (∃ rest, s.pending = .reset :: rest ∧ step s = .next (State.resetBlock { s with pending := rest })) ∨
    (∃ c rest, s.pending = .issue c :: rest ∧ step s = issue c { s with pending := rest }) ∨
    (∃ r rest, s.pending = .readReg r :: rest ∧
      step s = .next (State.give (s.readReg r) { s with pending := rest })) ∨
    (∃ i rest, s.pending = .readObuf i :: rest ∧ step s = clientReadObuf i { s with pending := rest }) := by
  unfold step clientStep
  cases h : s.pending with
  | nil => exact .inl ⟨rfl, rfl⟩
  | cons m rest =>
    right
    cases m with
    | reset => exact .inl ⟨rest, rfl, rfl⟩
    | issue c => exact .inr (.inl ⟨c, rest, rfl, rfl⟩)
    | readReg r => exact .inr (.inr (.inl ⟨r, rest, rfl, by cases r <;> rfl⟩))
    | readObuf i => exact .inr (.inr (.inr ⟨i, rest, rfl, rfl⟩))

/-- An opcode-table word placed as the next move is what the next step issues. -/
theorem step_withFetchWord (s : State) (nbits w : Nat) :
    step (s.withFetchWord nbits w) = issue (tableCommand nbits w) s := rfl

end Sys2Proof.Machine
end

