-- ==== Sys2Proof/Tests/Slice0.lean ====
section
/-! SUPPORT. The model's own tests. Expected values are those of spec/95_test_vectors.md (named in each comment), under
`LIVOX_DEFAULT`, or are written out from the encodings of 30_encoding.md. The theorems test_meets_… are the witnesses that
the hypotheses of the statements can be met. -/

-- one theorem at a time: checking all of them at once asks for a thread, and its stack, for each
set_option Elab.async false

namespace Sys2Proof.Tests

open Sys2Proof.Machine Sys2Proof.Safety

/-- The state after one command from reset. -/
def after (c : Command) : State :=
  match issue c State.reset with
  | .next t => t
  | _ => State.reset

/-- The text "123456789" (K6). -/
def digits : List Byte := [0x31, 0x32, 0x33, 0x34, 0x35, 0x36, 0x37, 0x38, 0x39]

/-- The frame of vector E2. -/
def frameE2 : List Byte := [0xAA, 0x01, 0x0F, 0x00, 0x00, 0x03, 0x00, 0x6C, 0xFD, 0x00, 0x03, 0x4C, 0xD4, 0x51, 0x41]

/-- The frame of vector E3: an empty payload, 13 bytes. -/
def frameE3 : List Byte := [0xAA, 0x01, 0x0D, 0x00, 0x00, 0x00, 0x00, 0x8C, 0xC1, 0x74, 0xD4, 0xD2, 0x3A]

/-- The frame of vector E4, type AKN. -/
def frameE4 : List Byte := [0xAA, 0x01, 0x0F, 0x00, 0x01, 0x03, 0x00, 0xB0, 0xA7, 0x00, 0x03, 0xBF, 0x72, 0x8F, 0xEA]

/-- The frame of vector E5, type MSG. -/
def frameE5 : List Byte := [0xAA, 0x01, 0x0F, 0x00, 0x02, 0xFF, 0xFF, 0x04, 0x92, 0x00, 0x00, 0xC0, 0xD9, 0xEA, 0x5A]

/-- The input of vector D5: `length` field 1400 in 15 bytes. -/
def frameD5 : List Byte := [0xAA, 0x01, 0x78, 0x05, 0x00, 0x03, 0x00, 0x14, 0xB6, 0x00, 0x03, 0x66, 0x9E, 0x37, 0x4F]

/-- The input of vector D16: start byte 0xAB with right CRCs. -/
def frameD16 : List Byte := [0xAB, 0x01, 0x0F, 0x00, 0x00, 0x03, 0x00, 0xB9, 0x62, 0x00, 0x03, 0xEA, 0xBD, 0x1A, 0x67]

/-- The input of vector D17: version 0x02 with right CRCs. -/
def frameD17 : List Byte := [0xAA, 0x02, 0x0F, 0x00, 0x00, 0x03, 0x00, 0x11, 0xF1, 0x00, 0x03, 0x6A, 0xEE, 0x29, 0x3A]

/-- The input of vector D19a: `length` field 1401 with right CRCs. -/
def frameD19a : List Byte := [0xAA, 0x01, 0x79, 0x05, 0x00, 0x03, 0x00, 0x50, 0xBD, 0x00, 0x03, 0xAE, 0xAA, 0x6F, 0x40]

/-- `n` zero bytes. -/
def zeros (n : Nat) : List Byte := List.replicate n 0

/-! ### Decoding words written out from the spec -/

-- 30_encoding.md R47: OP 0x00 in bits 7..0; R48: bits 31..8 ignored
theorem test_decode_crc16 :
    decode Config.livoxDefault ⟨0b11111111111111111111111100000000, [0x00]⟩ = .ok (.crc16 [0x00]) := by decide
theorem test_decode_crc32 :
    decode Config.livoxDefault ⟨0b00000000000000000000000000000001, digits⟩ = .ok (.crc32 digits) := by decide
-- R47: SEQ in bits 31..16, FT in bits 15..8
theorem test_decode_encode :
    decode Config.livoxDefault ⟨0b00010010001101000111111100000010, [0xDE]⟩ = .ok (.encode 0x7F 0x1234 [0xDE]) :=
    by decide
theorem test_decode_decode :
    decode Config.livoxDefault ⟨0b10101011110011011110111100000011, []⟩ = .ok (.decode []) := by decide
-- R79: CMD[15:0] = 0x0002, 0x0102, 0x0202
theorem test_decode_encodeCmd :
    decode Config.livoxDefault ⟨0b00000000000000110000000000000010, [0x00, 0x03]⟩ =
    .ok (.encodeCmd 3 [0x00, 0x03]) := by decide
theorem test_decode_encodeAkn :
    decode Config.livoxDefault ⟨0b00000000000000110000000100000010, [0x00, 0x03]⟩ =
    .ok (.encodeAkn 3 [0x00, 0x03]) := by decide
theorem test_decode_encodeMsg :
    decode Config.livoxDefault ⟨0b11111111111111110000001000000010, [0x00, 0x00]⟩ =
    .ok (.encodeMsg 0xFFFF [0x00, 0x00]) := by decide
-- R42: the fields of the frames of E2, E4, E5
theorem test_decode_frameCmd :
    decode Config.livoxDefault ⟨0x00000003, frameE2⟩ = .ok (.frameCmd 15 3 0xFD6C [0x00, 0x03] 0x4151D44C) := by
  decide +kernel
theorem test_decode_frameAkn :
    decode Config.livoxDefault ⟨0x00000003, frameE4⟩ = .ok (.frameAkn 15 3 0xA7B0 [0x00, 0x03] 0xEA8F72BF) := by
  decide +kernel
theorem test_decode_frameMsg :
    decode Config.livoxDefault ⟨0x00000003, frameE5⟩ = .ok (.frameMsg 15 0xFFFF 0x9204 [0x00, 0x00] 0x5AEAD9C0) :=
    by decide +kernel
-- R50: the first and the last reserved opcode
theorem test_decode_reserved_first :
    decode Config.livoxDefault ⟨0x00000004, digits⟩ = .error (.reservedOpcode 0x04) := by decide
theorem test_decode_reserved_last :
    decode Config.livoxDefault ⟨0x000000FF, []⟩ = .error (.reservedOpcode 0xFF) := by decide
-- the frame row's pattern, byte k in bits 8k+7..8k: AA 01 0D 00 01 34 12 CD AB
theorem test_table_frameAkn :
    decodeTableWord 72 0xABCD123401000D01AA = some (.frameAkn 0x000D 0x1234 0xABCD [] 0) := by decide +kernel
theorem test_table_encodeAkn : decodeTableWord 32 0x56780102 = some (.encodeAkn 0x5678 []) := by decide

/-! ### Well-formedness refuses ill-formed terms -/

theorem test_wf_refuses_long_frameCmd :
    (Instr.frameCmd 0 0 0 (zeros 1388) 0).wf Config.livoxDefault = false := by decide +kernel
theorem test_wf_refuses_long_frameAkn :
    (Instr.frameAkn 0 0 0 (zeros 1388) 0).wf Config.livoxDefault = false := by decide +kernel
theorem test_wf_refuses_long_frameMsg :
    (Instr.frameMsg 0 0 0 (zeros 1388) 0).wf Config.livoxDefault = false := by decide +kernel
theorem test_wf_admits_longest_frame :
    (Instr.frameMsg 0 0 0 (zeros 1387) 0).wf Config.livoxDefault = true := by decide +kernel
theorem test_wf_refuses_start : ¬ { Config.livoxDefault with startMarker := 0xAB }.wf := by decide
theorem test_wf_refuses_version : ¬ { Config.livoxDefault with protocolVersion := 0x02 }.wf := by decide
theorem test_wf_refuses_max : ¬ { Config.livoxDefault with maxFrameLen := 1401 }.wf := by decide
theorem test_wf_refuses_ftCmd : ¬ { Config.livoxDefault with ftCmd := 0x01 }.wf := by decide
theorem test_wf_refuses_ftAkn : ¬ { Config.livoxDefault with ftAkn := 0x00 }.wf := by decide
theorem test_wf_refuses_ftMsg : ¬ { Config.livoxDefault with ftMsg := 0x03 }.wf := by decide
theorem test_wf_refuses_xorout :
    ¬ { Config.livoxDefault with crc16p := { Config.livoxCrc16 with xorout := 1 } }.wf := by decide

/-! ### One operation from reset -/

-- 95_test_vectors.md section 2: the catalogue check values, independent of LIVOX_DEFAULT
theorem test_crc16_catalogue :
    crc ({ poly := 0x1021, init := 0xFFFF, refin := true, refout := true, xorout := 0 } : CrcParams 16)
      digits = 0x6F91 := by
  decide +kernel
theorem test_crc32_catalogue :
    crc ({ poly := 0x04C11DB7, init := 0xFFFFFFFF, refin := true, refout := true, xorout := 0xFFFFFFFF } : CrcParams 32)
      digits = 0xCBF43926 := by decide +kernel
-- K6, with the upper bits of the command word set
theorem test_crc16_K6 : (after ⟨0xFFFFFF00, digits⟩).crc16Out = 0xAB4E := by decide +kernel
theorem test_crc32_K6 : (after ⟨0x00000001, digits⟩).crc32Out = 0xB08DB5B1 := by decide +kernel
-- E2 as ENCODE.CMD, E4, E5
theorem test_encodeCmd_E2 : (after ⟨0x00030002, [0x00, 0x03]⟩).output = frameE2 := by decide +kernel
theorem test_encodeAkn_E4 : (after ⟨0x00030102, [0x00, 0x03]⟩).output = frameE4 := by decide +kernel
theorem test_encodeMsg_E5 : (after ⟨0xFFFF0202, [0x00, 0x00]⟩).output = frameE5 := by decide +kernel
-- E6, E9
theorem test_encode_E6 : (after ⟨0x12347F02, [0xDE, 0xAD, 0xBE, 0xEF]⟩).output =
    [0xAA, 0x01, 0x11, 0x00, 0x7F, 0x34, 0x12, 0xB2, 0x2A, 0xDE, 0xAD, 0xBE, 0xEF, 0x29, 0x6D, 0x07, 0x7C] := by
  decide +kernel
theorem test_encode_E9 : (after ⟨0x00070002, zeros 1388⟩).status = 0x01 := by decide +kernel
-- D1 (FRAME.CMD), program 2 (FRAME.AKN), the frame of E5 (FRAME.MSG)
theorem test_frameCmd_D1 : (after ⟨0xABCDEF03, frameE2⟩).fFcrc = 0x4151D44C := by decide +kernel
theorem test_frameAkn_program2 : (after ⟨0x00000003, frameE4⟩).output = [0x00, 0x03] := by decide +kernel
theorem test_frameMsg_E5 : (after ⟨0x00000003, frameE5⟩).fSeq = 0xFFFF := by decide +kernel
-- D18 (both markers wrong, right CRCs), D3 (frame type 0x7F)
theorem test_decode_D18 :
    (after ⟨0x00000003, [0x55, 0x02, 0x0F, 0x00, 0x00, 0x03, 0x00, 0xB4, 0x7F, 0x00, 0x03, 0x7D, 0xA2,
    0x0C, 0xB1]⟩).status = 0x02 := by decide +kernel
theorem test_decode_D3 :
    (after ⟨0x00000003, [0xAA, 0x01, 0x11, 0x00, 0x7F, 0x34, 0x12, 0xB2, 0x2A, 0xDE, 0xAD, 0xBE, 0xEF,
    0x29, 0x6D, 0x07, 0x7C]⟩).fType = 0x7F := by decide +kernel
-- X2
theorem test_reserved_X2 : (after ⟨0x000000FF, digits⟩).status = 0x05 := by decide +kernel

/-! ### Text -/

-- 30_encoding.md R54: ENCODE ft=0x00, seq=3, [00 03]
theorem test_readLine_encode :
    readLine Config.livoxDefault ['E', 'N', 'C', 'O', 'D', 'E', ' ', 'f', 't', '=', '0', 'x', '0', '0', ',', ' ',
    's', 'e', 'q', '=', '3', ',', ' ', '[', '0', '0', ' ', '0', '3', ']'] = some (.encodeCmd 3 [0x00, 0x03]) := by
  decide +kernel
-- a frame type of 9 bits is no operand
theorem test_readLine_refuses_wide_ft :
    readLine Config.livoxDefault ['E', 'N', 'C', 'O', 'D', 'E', ' ', 'f', 't', '=', '2', '5', '6', ',', ' ',
    's', 'e', 'q', '=', '3', ',', ' ', '[', ']'] = none := by decide +kernel
-- an assembled line is the command word and the bytes it names
theorem test_assemble : assemble Config.livoxDefault [['C', 'R', 'C', '3', '2', ' ', '[', '3', '1', ']']] =
    some [.issue ⟨0x00000001, [0x31]⟩] := by decide +kernel

/-! ### Witnesses: the hypotheses of the statements can be met -/

/-- A small state that meets the invariant: `OBUF` holds the two bytes that D1 leaves. -/
def twoBytes : State := { State.reset with olen := 2, obuf := [(0, 0x00), (1, 0x03)] }

-- Crc16WritesChecksum, Crc32WritesChecksum
theorem test_meets_crc16_opcode : (⟨0xFFFFFF00, [0x00]⟩ : Command).op = 0x00 := by decide
theorem test_meets_crc32_opcode : (⟨0xFFFFFF01, [0x00]⟩ : Command).op = 0x01 := by decide
-- CrcOfEmptyInput
theorem test_meets_refout_off : ({ Config.livoxCrc16 with refout := false }).refout = false := rfl
theorem test_meets_refout_on : Config.livoxCrc32.refout = true := rfl
theorem test_meets_livox :
    Config.livoxDefault.crc16p = Config.livoxCrc16 ∧ Config.livoxDefault.crc32p = Config.livoxCrc32 := by decide
-- LsbFirstFormAgrees, CrcDetectsSingleBit (the last bit of the sequence), CrcIsPolynomialRemainder
theorem test_meets_reflected_crc :
    8 ≤ 16 ∧ Config.livoxCrc16.refin = true ∧ Config.livoxCrc16.refout = true := by decide
theorem test_meets_single_bit :
    8 ≤ 32 ∧ Config.livoxCrc32.poly.getLsbD 0 = true ∧ 15 < 8 * ([0x00, 0x03] : List Byte).length := by decide
theorem test_meets_width : 8 ≤ 8 := Nat.le_refl 8
-- the statements about ENCODE, its aliases and its frames, at the largest payload; EncodeChecksTotalLength and
-- EncodeAliasesCheckLength one byte above it
theorem test_meets_largest_payload : State.reset.cfg.wf ∧ 13 + (zeros 1387).length ≤ 1400 := by decide +kernel
theorem test_meets_payload_too_large : State.reset.cfg.wf ∧ 1400 < 13 + (zeros 1388).length := by decide +kernel
-- EncodedFrameOutsideCrcsIsParameterFree, in each of the two ranges
theorem test_meets_two_configurations :
    State.reset.cfg.wf ∧ ({ Config.livoxDefault with crc32p := { Config.livoxCrc32 with init := 0 } } : Config).wf ∧
      13 + ([0x00, 0x03] : List Byte).length ≤ 1400 ∧ (6 < 7) ∧ (9 ≤ 10 ∧
    10 < 9 + ([0x00, 0x03] : List Byte).length) := by
  decide
-- DecodeWritesFrame, FrameTypesAreCarriedUnchanged, at the smallest size and at the largest `length` field
theorem test_meets_smallest_accepted : State.reset.cfg.wf ∧ Accepts State.reset.cfg frameE3 := by decide +kernel
theorem test_meets_largest_length_field : State.reset.cfg.wf ∧ Accepts State.reset.cfg frameD5 := by decide +kernel
-- DecodeIgnoresLengthMismatch
theorem test_meets_length_mismatch : State.reset.cfg.wf ∧ Accepts State.reset.cfg frameD5 ∧
    (le16 (slice frameD5 2 4)).toNat ≠ frameD5.length := by decide +kernel
-- DecodeRejectsTooLarge, DecodeRejectsTooShort, each clause
theorem test_meets_too_large : State.reset.cfg.wf ∧ 1400 < (zeros 1401).length ∧ ¬ 1400 < (zeros 1400).length := by
  decide +kernel
theorem test_meets_too_short :
    State.reset.cfg.wf ∧ (zeros 12).length < 13 ∧ ¬ (zeros 13).length < 13 := by decide +kernel
-- DecodeRejectsHeaderCrc: 13 and 1400 zero bytes (D14, D15)
theorem test_meets_header_crc_wrong : 13 ≤ (zeros 13).length ∧ (zeros 1400).length ≤ 1400 ∧
    crc16 State.reset.cfg (slice (zeros 13) 0 7) ≠ le16 (slice (zeros 13) 7 9) ∧
    crc16 State.reset.cfg (slice (zeros 1400) 0 7) ≠ le16 (slice (zeros 1400) 7 9) := by decide +kernel
-- DecodeRejectsFrameCrc: the frame of E2 with a payload bit flipped (D27)
theorem test_meets_frame_crc_wrong :
    crc16 State.reset.cfg (slice (flipBit frameE2 72) 0 7) = le16 (slice (flipBit frameE2 72) 7 9) ∧
    crc32 State.reset.cfg (slice (flipBit frameE2 72) 0 11) ≠ le32 (slice (flipBit frameE2 72) 11 15) :=
    by decide +kernel
-- DecodeRejectsMarkers: D16 and D17; DecodeRejectsLengthField: D19a
theorem test_meets_start_wrong : crc16 State.reset.cfg (slice frameD16 0 7) = le16 (slice frameD16 7 9) ∧
    crc32 State.reset.cfg (slice frameD16 0 11) = le32 (slice frameD16 11 15) ∧ frameD16[0]? ≠ some 0xAA := by
  decide +kernel
theorem test_meets_version_wrong : crc16 State.reset.cfg (slice frameD17 0 7) = le16 (slice frameD17 7 9) ∧
    crc32 State.reset.cfg (slice frameD17 0 11) = le32 (slice frameD17 11 15) ∧ frameD17[0]? = some 0xAA ∧
    frameD17[1]? ≠ some 0x01 := by decide +kernel
theorem test_meets_length_field_wrong : crc16 State.reset.cfg (slice frameD19a 0 7) = le16 (slice frameD19a 7 9) ∧
    crc32 State.reset.cfg (slice frameD19a 0 11) = le32 (slice frameD19a 11 15) ∧ frameD19a[0]? = some 0xAA ∧
    frameD19a[1]? = some 0x01 ∧ 1400 < (le16 (slice frameD19a 2 4)).toNat := by decide +kernel
-- FailedDecodeChangesOnlyStatus
theorem test_meets_failing_decode : (after ⟨0x00000003, []⟩).status ≠ 0x00 := by decide +kernel
-- TypedFramesAreLoaded: the frames of E2, E4 and E5, one for each clause
theorem test_meets_typed_cmd : State.reset.cfg.wf ∧ 13 + ([0x00, 0x03] : List Byte).length ≤ 1400 ∧
    (15 : Half).toNat ≤ 1400 ∧ crc16 State.reset.cfg [0xAA, 0x01, 0x0F, 0x00, 0x00, 0x03, 0x00] = 0xFD6C ∧
    crc32 State.reset.cfg (frameE2.take 11) = 0x4151D44C := by decide +kernel
theorem test_meets_typed_akn : crc16 State.reset.cfg [0xAA, 0x01, 0x0F, 0x00, 0x01, 0x03, 0x00] = 0xA7B0 ∧
    crc32 State.reset.cfg (frameE4.take 11) = 0xEA8F72BF := by decide +kernel
theorem test_meets_typed_msg : crc16 State.reset.cfg [0xAA, 0x01, 0x0F, 0x00, 0x02, 0xFF, 0xFF] = 0x9204 ∧
    crc32 State.reset.cfg (frameE5.take 11) = 0x5AEAD9C0 := by decide +kernel
-- DecodeUndoesEncode, FlippedBitIsCrcMismatch: the last bit of byte 8, the first of byte 9, the last of the frame
theorem test_meets_round_trip : State.reset.cfg.wf ∧ twoBytes.cfg = State.reset.cfg ∧
    State.reset.cfg.crc16p.poly.getLsbD 0 = true ∧ State.reset.cfg.crc32p.poly.getLsbD 0 = true ∧
    (zeros 1387).length ≤ 1387 ∧ 71 < 72 ∧ 71 < 8 * (13 + 0) ∧ 72 < 8 * (13 + 0) ∧
    11199 < 8 * (13 + (zeros 1387).length) := by
  decide +kernel
-- ReservedOpcodeIsIllegalOp, StatusValuesByOpcode, at both ends and for each opcode
theorem test_meets_reserved_opcode :
    4 ≤ (0xABCDEF04 : Word).toNat % 256 ∧ 4 ≤ (0x000000FF : Word).toNat % 256 := by decide
theorem test_meets_each_opcode : (⟨0x00000000, []⟩ : Command).op = 0x00 ∧ (⟨0x00000001, []⟩ : Command).op = 0x01 ∧
    (⟨0x00000002, []⟩ : Command).op = 0x02 ∧ (⟨0x00000003, []⟩ : Command).op = 0x03 ∧
    4 ≤ (⟨0x00000004, []⟩ : Command).op.toNat := by decide
-- StepRunsDecodedInstruction, ProgramsRunToTheirEnd
theorem test_meets_step : ({ State.reset with pending := [.issue ⟨0x00000000, digits⟩, .reset] } : State).pending =
    .issue ⟨0x00000000, digits⟩ :: [.reset] ∧ decode Config.livoxDefault ⟨0x00000000, digits⟩ =
    .ok (.crc16 digits) := by decide
theorem test_meets_table_word : State.reset.cfg.wf ∧ decodeTableWord 32 0x00030102 = some (.encodeAkn 3 []) := by decide
theorem test_meets_program : ({ State.reset with pending := [.issue ⟨0, digits⟩, .issue ⟨4, []⟩] } : State).pending =
    [⟨0, digits⟩, ⟨4, []⟩].map .issue := by decide
-- ResetClearsRegisters, RegisterReadsGiveValues
theorem test_meets_reset_move : ({ twoBytes with pending := [.reset] } : State).pending = .reset :: [] := rfl
theorem test_meets_register_read :
    ({ twoBytes with pending := [.readReg .olen] } : State).pending = .readReg .olen :: [] :=
  rfl
-- ObufReadsGiveBytesBelowOlen, StepKeepsInvariant, OnlyUnreadableObufStops: the last readable index and the first that
-- is not
theorem test_meets_invariant : Inv { twoBytes with pending := [.readObuf 1, .readObuf 2] } :=
  ⟨by decide, by decide, by decide, by decide, .inl (by decide)⟩
theorem test_meets_obuf_indices : 1 < twoBytes.olen.toNat ∧ twoBytes.olen.toNat ≤ 2 := by decide
theorem test_meets_step_next : ∃ t, step { twoBytes with pending := [.readObuf 1, .readObuf 2] } = .next t := ⟨_, rfl⟩
theorem test_meets_step_refused :
    step { twoBytes with pending := [.readObuf 2] } = .refused (.obufUnreadable 2) := rfl
-- DecodeUndoesEncoding, AssemblerReadsWhatItPrints; EncodingUndoesDecode, DecodedCommandMatchesItsRow;
-- OpcodeAloneSelects
theorem test_meets_wf_instr :
    Config.livoxDefault.wf ∧ (Instr.frameAkn 15 3 0xA7B0 (zeros 1387) 0).wf Config.livoxDefault = true ∧
    3 ≤ (3 : Byte).toNat := by
  decide +kernel
theorem test_meets_decoded : decode Config.livoxDefault ⟨0x12347F02, [0x00]⟩ = .ok (.encode 0x7F 0x1234 [0x00]) ∧
    (⟨0x12347F02, [0x00]⟩ : Command).op = 0x02 ∧ decode Config.livoxDefault ⟨0x12347F00, [0x00]⟩ = .ok (.crc16 [0x00]) ∧
    (⟨0x12347F00, [0x00]⟩ : Command).op ≠ 0x02 := by decide
theorem test_meets_selected : (0xFFFFFF03 : Word) &&& 0xFF = 0x03 ∧ ((0x03 : Byte) = 0x00 ∨ (0x03 : Byte) = 0x01 ∨
    (0x03 : Byte) = 0x03) := by decide
-- BytesAreLittleEndian: the first and the last byte of a 4-byte value, the bytes on either side; a field at the end
theorem test_meets_bytes :
    0 < 4 ∧ 3 < 4 ∧ (6 < 7 ∨ 7 + 4 ≤ 6) ∧ (11 < 7 ∨ 7 + 4 ≤ 11) ∧ 13 + 2 ≤ frameE2.length := by decide
-- FrameFieldsStandAtTheirOffsets: the smallest frame
theorem test_meets_serialized :
    ∃ f, serialize State.reset.cfg 0x7F 0x1234 [0xDE, 0xAD, 0xBE, 0xEF] = .ok f := ⟨_, rfl⟩
theorem test_meets_frame_size : 13 ≤ frameE3.length ∧ 0 < frameE2.length - 13 := by decide

end Sys2Proof.Tests
end

section
/-! The write set of a command (10_state.md R13, R25). `commandWrites` reads the configuration and the command and never a
state; `issue_applied` ties it to `issue`, and `commandWrites_cases` lists its values by opcode and outcome. -/

namespace Sys2Proof.Machine

@[simp] theorem statusOk_eq_zero : statusOk = 0 := rfl

theorem errStatus_ne_zero (e : OpError) : errStatus e ≠ 0 := by cases e <;> decide

/-! ### Every spelling of an ENCODE or a DECODE runs the one operation -/

/-- Whichever row of the opcode table spells it, an ENCODE runs with its own frame type (30_encoding.md R55). -/
theorem exec_encodeForm (s : State) (ft : Byte) (seq : Half) (payload : List Byte) :
    exec (encodeForm s.cfg ft seq payload) s = runEncode ft seq payload s := by
  unfold encodeForm
  split_ifs with hcmd hakn hmsg
  · subst hcmd; rfl
  · subst hakn; rfl
  · subst hmsg; rfl
  · rfl

/-- An input with a frame's size and markers is the wire form of its own fields (30_encoding.md R42, R57). -/
theorem typedFrameBytes_of_hasFrameHeader {k : Config} {input : List Byte} (h : hasFrameHeader k input = true) :
    let f := frameFields input
    typedFrameBytes k f.frameType f.length f.sequence f.headerCrc16 f.payload f.frameCrc32 = input := by
  simp only [hasFrameHeader, Bool.and_eq_true, decide_eq_true_eq] at h
  obtain ⟨⟨⟨hmin, -⟩, hstart⟩, hversion⟩ := h
  simp only [typedFrameBytes, ← hstart, ← hversion]
  exact frameBytes_frameFields input hmin

/-- Whichever row of the opcode table spells it, a DECODE runs on its own input (30_encoding.md R57). -/
theorem exec_decodeForm (s : State) (input : List Byte) : exec (decodeForm s.cfg input) s = runDecode input s := by
  simp only [decodeForm]
  split_ifs with hheader hcmd hakn hmsg
  · show runDecode (typedFrameBytes s.cfg s.cfg.ftCmd _ _ _ _ _) s = _
    rw [← hcmd, typedFrameBytes_of_hasFrameHeader hheader]
  · show runDecode (typedFrameBytes s.cfg s.cfg.ftAkn _ _ _ _ _) s = _
    rw [← hakn, typedFrameBytes_of_hasFrameHeader hheader]
  · show runDecode (typedFrameBytes s.cfg s.cfg.ftMsg _ _ _ _ _) s = _
    rw [← hmsg, typedFrameBytes_of_hasFrameHeader hheader]
  · rfl
  · rfl

/-- The payload DECODE answers is the input without its 13 bytes of overhead (42_frame_decode.md R81). -/
theorem length_payload_of_deserialize {c : Config} {input : List Byte} {f : Frame}
    (h : deserialize c input = .ok f) : f.payload.length = input.length - 13 := by
  obtain ⟨-, -, hcheck⟩ := (deserialize_ok_iff c input f).mp h
  obtain ⟨rfl, -⟩ := (checkFrame_ok_iff c input (frameFields input) f).mp hcheck
  have hslice := length_slice input 9 (input.length - 4)
  simp only [frameFields]
  omega

end Sys2Proof.Machine

namespace Sys2Proof.Safety

open Sys2Proof.Machine

/-! ### What each outcome writes -/

/-- The write set of an error: `STATUS` alone (10_state.md R25, last row). -/
def Writes.ofError (e : OpError) : Writes :=
  { status := errStatus e, crc16Out := none, crc32Out := none, frame := none, output := none }

/-- The write set of CRC16. -/
def Writes.ofCrc16 (v : Half) : Writes :=
  { status := statusOk, crc16Out := some v, crc32Out := none, frame := none, output := none }

/-- The write set of CRC32. -/
def Writes.ofCrc32 (v : Word) : Writes :=
  { status := statusOk, crc16Out := none, crc32Out := some v, frame := none, output := none }

/-- The write set of a successful ENCODE. -/
def Writes.ofEncoded (frame : List Byte) : Writes :=
  { status := statusOk, crc16Out := none, crc32Out := none, frame := none, output := some frame }

/-- The write set of a successful DECODE. -/
def Writes.ofDecoded (f : Frame) : Writes :=
  { status := statusOk, crc16Out := none, crc32Out := none, frame := some f, output := some f.payload }

/-- The write set of ENCODE, either outcome. -/
def encodeWrites (k : Config) (ft : Byte) (seq : Half) (payload : List Byte) : Writes :=
  match serialize k ft seq payload with
  | .error e => .ofError e
  | .ok frame => .ofEncoded frame

/-- The write set of DECODE, either outcome. -/
def decodeWrites (k : Config) (input : List Byte) : Writes :=
  match deserialize k input with
  | .error e => .ofError e
  | .ok f => .ofDecoded f

/-- The write set of a command under a configuration. -/
def commandWrites (k : Config) (c : Command) : Writes :=
  if c.op = 0x00 then .ofCrc16 (crc16 k c.input)
  else if c.op = 0x01 then .ofCrc32 (crc32 k c.input)
  else if c.op = 0x02 then encodeWrites k c.ft c.seq c.input
  else if c.op = 0x03 then decodeWrites k c.input
  else .ofError .illegalOp

theorem Writes.ofError_applied (e : OpError) (s : State) :
    (Writes.ofError e).Applied s (s.setStatus (errStatus e)) := by
  simp [Writes.Applied, Writes.ofError, FrameRegsKept, BufferKept, ClientKept]

theorem Writes.ofCrc16_applied (v : Half) (s : State) :
    (Writes.ofCrc16 v).Applied s ((s.usedCrc16.setCrc16Out v).setStatus statusOk) := by
  simp [Writes.Applied, Writes.ofCrc16, FrameRegsKept, BufferKept, ClientKept]

theorem Writes.ofCrc32_applied (v : Word) (s : State) :
    (Writes.ofCrc32 v).Applied s ((s.usedCrc32.setCrc32Out v).setStatus statusOk) := by
  simp [Writes.Applied, Writes.ofCrc32, FrameRegsKept, BufferKept, ClientKept]

theorem Writes.ofEncoded_applied (frame : List Byte) (s : State) :
    (Writes.ofEncoded frame).Applied s ((s.storeOutput frame).setStatus statusOk) := by
  simp [Writes.Applied, Writes.ofEncoded, FrameRegsKept, ClientKept, -State.storeOutput_obuf]

theorem Writes.ofDecoded_applied (f : Frame) (s : State) :
    (Writes.ofDecoded f).Applied s (((s.storeFrame f).storeOutput f.payload).setStatus statusOk) := by
  simp [Writes.Applied, Writes.ofDecoded, ClientKept, -State.storeOutput_obuf]

/-- A use of both CRC engines is invisible: it changes the hidden registers alone (10_state.md R22). -/
theorem Writes.applied_usedCrcs_iff (w : Writes) (s t : State) :
    w.Applied s.usedCrc16.usedCrc32 t ↔ w.Applied s t := Iff.rfl

/-! ### The operations write their write sets -/

theorem runEncode_applied (s : State) (ft : Byte) (seq : Half) (payload : List Byte) :
    ∃ t, runEncode ft seq payload s = .next t ∧ (encodeWrites s.cfg ft seq payload).Applied s t := by
  unfold runEncode encodeWrites
  cases serialize s.cfg ft seq payload with
  | error e => exact ⟨_, rfl, (Writes.applied_usedCrcs_iff _ _ _).mp (Writes.ofError_applied e _)⟩
  | ok frame => exact ⟨_, rfl, (Writes.applied_usedCrcs_iff _ _ _).mp (Writes.ofEncoded_applied frame _)⟩

theorem runDecode_applied (s : State) (input : List Byte) :
    ∃ t, runDecode input s = .next t ∧ (decodeWrites s.cfg input).Applied s t := by
  unfold runDecode decodeWrites
  cases deserialize s.cfg input with
  | error e => exact ⟨_, rfl, (Writes.applied_usedCrcs_iff _ _ _).mp (Writes.ofError_applied e _)⟩
  | ok f => exact ⟨_, rfl, (Writes.applied_usedCrcs_iff _ _ _).mp (Writes.ofDecoded_applied f _)⟩

/-- Every command completes, and leaves the state with exactly its write set written (R13, R25). -/
theorem issue_applied (s : State) (c : Command) :
    ∃ t, issue c s = .next t ∧ (commandWrites s.cfg c).Applied s t := by
  unfold issue decode commandWrites
  split_ifs with hcrc16 hcrc32 hencode hdecode
  · exact ⟨_, rfl, Writes.ofCrc16_applied _ s⟩
  · exact ⟨_, rfl, Writes.ofCrc32_applied _ s⟩
  · simpa only [exec_encodeForm] using runEncode_applied s c.ft c.seq c.input
  · simpa only [exec_decodeForm] using runDecode_applied s c.input
  · exact ⟨_, rfl, Writes.ofError_applied .illegalOp s⟩

/-- The write sets there are, by opcode and outcome (R25). -/
theorem commandWrites_cases (k : Config) (c : Command) :
    (c.op = 0x00 ∧ ∃ v, commandWrites k c = .ofCrc16 v) ∨
    (c.op = 0x01 ∧ ∃ v, commandWrites k c = .ofCrc32 v) ∨
    (c.op = 0x02 ∧ ∃ frame, frame.length = 13 + c.input.length ∧ commandWrites k c = .ofEncoded frame) ∨
    (c.op = 0x03 ∧ ∃ f, f.payload.length = c.input.length - 13 ∧ commandWrites k c = .ofDecoded f) ∨
    (c.op ≠ 0x00 ∧ c.op ≠ 0x01 ∧ ∃ e, commandWrites k c = .ofError e) := by
  unfold commandWrites
  split_ifs with hcrc16 hcrc32 hencode hdecode
  · exact .inl ⟨hcrc16, _, rfl⟩
  · exact .inr (.inl ⟨hcrc32, _, rfl⟩)
  · unfold encodeWrites
    cases h : serialize k c.ft c.seq c.input with
    | error e => exact .inr (.inr (.inr (.inr ⟨hcrc16, hcrc32, e, rfl⟩)))
    | ok frame => exact .inr (.inr (.inl ⟨hencode, frame, length_of_serialize h, rfl⟩))
  · unfold decodeWrites
    cases h : deserialize k c.input with
    | error e => exact .inr (.inr (.inr (.inr ⟨hcrc16, hcrc32, e, rfl⟩)))
    | ok f => exact .inr (.inr (.inr (.inl ⟨hdecode, f, length_payload_of_deserialize h, rfl⟩)))
  · exact .inr (.inr (.inr (.inr ⟨hcrc16, hcrc32, _, rfl⟩)))

/-! ### The statements -/

/-- Settles O32: the write set is `commandWrites`, which no state enters. -/
theorem outcomeDependsOnCommandOnly : Obligations.OutcomeDependsOnCommandOnly := by
  intro c cfg
  refine ⟨commandWrites cfg c, ?_⟩
  rintro s rfl
  exact issue_applied s c

/-- Settles O33: the write set is `commandWrites`, whose values `commandWrites_cases` lists. -/
theorem writeSetsByOperation : Obligations.WriteSetsByOperation := by
  intro c cfg
  have happlied : ∀ s : State, s.cfg = cfg → ∃ t, issue c s = .next t ∧ (commandWrites cfg c).Applied s t := by
    rintro s rfl
    exact issue_applied s c
  obtain ⟨hop, v, hw⟩ | ⟨hop, v, hw⟩ | ⟨hop, frame, hlen, hw⟩ | ⟨hop, f, hlen, hw⟩ | ⟨hop0, hop1, e, hw⟩ :=
    commandWrites_cases cfg c <;> rw [hw] at happlied
  · exact ⟨.ofCrc16 v, by simp [Writes.ofCrc16, hop], by simp [Writes.ofCrc16], by simp [Writes.ofCrc16, hop], happlied⟩
  · exact ⟨.ofCrc32 v, by simp [Writes.ofCrc32, hop], by simp [Writes.ofCrc32], by simp [Writes.ofCrc32, hop], happlied⟩
  · exact ⟨.ofEncoded frame, by simp [hop], by simp [Writes.ofEncoded], by simp [Writes.ofEncoded, hop, hlen], happlied⟩
  · exact ⟨.ofDecoded f, by simp [hop], by simp [Writes.ofDecoded], by simp [Writes.ofDecoded, hop, hlen], happlied⟩
  · have hstatus := errStatus_ne_zero e
    exact ⟨.ofError e, fun hop => (hop.elim hop0 hop1).elim, by simp [Writes.ofError], fun h => absurd h hstatus, happlied⟩

end Sys2Proof.Safety
end

section
/-! The layout of a frame (30_encoding.md R42, R43): where each field stands in a byte sequence of at least 13 bytes, in
the wire bytes of a frame, and in what the serializer emits. The last two follow from the first, since the fields of
`frameBytes x` are `x` (`frameFields_frameBytes`) and the serializer emits the wire bytes of `encodedFrame`. -/

namespace Sys2Proof.Machine

/-! ### Slices -/

@[simp] theorem slice_self (s : List Byte) (a : Nat) : slice s a a = [] := by simp [slice]

theorem slice_cons (s : List Byte) {a b : Nat} (hab : a < b) (ha : a < s.length) :
    slice s a b = s.getD a 0 :: slice s (a + 1) b := by
  rw [slice, List.drop_eq_getElem_cons ha, show b - a = b - (a + 1) + 1 by omega, List.take_succ_cons,
    List.getD_eq_getElem _ _ ha, slice]

theorem slice_two (s : List Byte) {a : Nat} (h : a + 2 ≤ s.length) :
    slice s a (a + 2) = [s.getD a 0, s.getD (a + 1) 0] := by
  rw [slice_cons s (by omega) (by omega), slice_cons s (by omega) (by omega), slice_self]

/-- The last four bytes, counted from the end as R43 counts those of the frame CRC. -/
theorem slice_last_four (s : List Byte) (h : 4 ≤ s.length) :
    slice s (s.length - 4) s.length =
      [s.getD (s.length - 4) 0, s.getD (s.length - 3) 0, s.getD (s.length - 2) 0, s.getD (s.length - 1) 0] := by
  obtain ⟨m, hm⟩ : ∃ m, s.length = m + 4 := ⟨s.length - 4, by omega⟩
  rw [hm, slice_cons s (by omega) (by omega), slice_cons s (by omega) (by omega), slice_cons s (by omega) (by omega),
    slice_cons s (by omega) (by omega)]
  simp [Nat.add_assoc]

theorem slice_append_left (l r : List Byte) : slice (l ++ r) 0 l.length = l := by simp [slice]

theorem getElem?_eq_some_getD (s : List Byte) {i : Nat} (h : i < s.length) : s[i]? = some (s.getD i 0) := by
  rw [List.getElem?_eq_getElem h, List.getD_eq_getElem _ _ h]

/-! ### The numbers of a frame -/

theorem le16_slice_toNat (s : List Byte) {a : Nat} (h : a + 2 ≤ s.length) :
    (le16 (slice s a (a + 2))).toNat = (s.getD a 0).toNat + 256 * (s.getD (a + 1) 0).toNat := by
  have h0 := (s.getD a 0).isLt
  have h1 := (s.getD (a + 1) 0).isLt
  rw [slice_two s h, le16, leNat_two, BitVec.toNat_ofNat]
  omega

theorem le32_slice_last_toNat (s : List Byte) (h : 4 ≤ s.length) :
    (le32 (slice s (s.length - 4) s.length)).toNat =
      (s.getD (s.length - 4) 0).toNat + 2 ^ 8 * (s.getD (s.length - 3) 0).toNat +
        2 ^ 16 * (s.getD (s.length - 2) 0).toNat + 2 ^ 24 * (s.getD (s.length - 1) 0).toNat := by
  have h0 := (s.getD (s.length - 4) 0).isLt
  have h1 := (s.getD (s.length - 3) 0).isLt
  have h2 := (s.getD (s.length - 2) 0).isLt
  have h3 := (s.getD (s.length - 1) 0).isLt
  rw [slice_last_four s h, le32, leNat_four, BitVec.toNat_ofNat]
  omega

/-- A 16-bit field read at offset `a` is emitted as the same two bytes. -/
theorem slice_eq_bytes16_le16 (s : List Byte) {a : Nat} (h : a + 2 ≤ s.length) :
    slice s a (a + 2) = bytes16 (le16 (slice s a (a + 2))) := by
  rw [slice_two s h, bytes16_le16]

/-- A 32-bit field read from the last four bytes is emitted as the same four bytes. -/
theorem slice_last_eq_bytes32_le32 (s : List Byte) (h : 4 ≤ s.length) :
    slice s (s.length - 4) s.length = bytes32 (le32 (slice s (s.length - 4) s.length)) := by
  rw [slice_last_four s h, bytes32_le32]

/-! ### The layout -/

/-- In `f` every field of `x` stands at its offset, the numbers as little-endian bytes (R43). -/
structure FieldsStandIn (x : Frame) (f : List Byte) : Prop where
  start : f[0]? = some x.start
  protocolVersion : f[1]? = some x.protocolVersion
  length : slice f 2 4 = bytes16 x.length
  frameType : f[4]? = some x.frameType
  sequence : slice f 5 7 = bytes16 x.sequence
  headerCrc16 : slice f 7 9 = bytes16 x.headerCrc16
  payload : slice f 9 (f.length - 4) = x.payload
  frameCrc32 : slice f (f.length - 4) f.length = bytes32 x.frameCrc32

theorem frameFields_standIn (f : List Byte) (h : 13 ≤ f.length) : FieldsStandIn (frameFields f) f where
  start := getElem?_eq_some_getD f (by omega)
  protocolVersion := getElem?_eq_some_getD f (by omega)
  length := slice_eq_bytes16_le16 f (by omega)
  frameType := getElem?_eq_some_getD f (by omega)
  sequence := slice_eq_bytes16_le16 f (by omega)
  headerCrc16 := slice_eq_bytes16_le16 f (by omega)
  payload := rfl
  frameCrc32 := slice_last_eq_bytes32_le32 f (by omega)

theorem fieldsStandIn_frameBytes (x : Frame) : FieldsStandIn x (frameBytes x) := by
  have h := frameFields_standIn (frameBytes x) (by simp)
  rwa [frameFields_frameBytes] at h

/-! ### The frame the serializer emits -/

/-- The frame ENCODE builds (41_frame_encode.md R73). -/
def encodedFrame (k : Config) (ft : Byte) (seq : Half) (payload : List Byte) : Frame :=
  let total := Config.overhead + payload.length
  { start := k.startMarker, protocolVersion := k.protocolVersion, length := BitVec.ofNat 16 total, frameType := ft,
    sequence := seq, headerCrc16 := crc16 k (encodeHeader k ft seq total), payload := payload,
    frameCrc32 := crc32 k (encodePrefix k ft seq payload) }

theorem frameBytes_encodedFrame (k : Config) (ft : Byte) (seq : Half) (payload : List Byte) :
    frameBytes (encodedFrame k ft seq payload) =
      encodePrefix k ft seq payload ++ bytes32 (crc32 k (encodePrefix k ft seq payload)) := rfl

@[simp] theorem length_frameBytes_encodedFrame (k : Config) (ft : Byte) (seq : Half) (payload : List Byte) :
    (frameBytes (encodedFrame k ft seq payload)).length = 13 + payload.length := length_frameBytes _

theorem serialize_ok_iff (k : Config) (ft : Byte) (seq : Half) (payload f : List Byte) :
    serialize k ft seq payload = .ok f ↔
      13 + payload.length ≤ k.maxFrameLen ∧ f = frameBytes (encodedFrame k ft seq payload) := by
  rw [frameBytes_encodedFrame]
  obtain ⟨hlarge, h⟩ | ⟨hfits, h⟩ := serialize_cases k ft seq payload
  · simp [h, Nat.not_le_of_lt hlarge]
  · simp [h, hfits, eq_comm]

/-- What the header CRC of an encoded frame covers: the 7 header bytes (R45). -/
theorem headerCrc16_encodedFrame (k : Config) (ft : Byte) (seq : Half) (payload : List Byte) :
    (encodedFrame k ft seq payload).headerCrc16 =
      crc16 k (slice (frameBytes (encodedFrame k ft seq payload)) 0 7) := by
  have hheader : slice (frameBytes (encodedFrame k ft seq payload)) 0 7 =
      encodeHeader k ft seq (Config.overhead + payload.length) := by
    rw [frameBytes_encodedFrame, encodePrefix, List.append_assoc, List.append_assoc]
    exact slice_append_left _ _
  rw [hheader]
  rfl

/-- What the frame CRC of an encoded frame covers: every byte before it (R45). -/
theorem frameCrc32_encodedFrame (k : Config) (ft : Byte) (seq : Half) (payload : List Byte) :
    let f := frameBytes (encodedFrame k ft seq payload)
    (encodedFrame k ft seq payload).frameCrc32 = crc32 k (slice f 0 (f.length - 4)) := by
  intro f
  have hprefix : slice f 0 (f.length - 4) = encodePrefix k ft seq payload := by
    have hlen : f.length - 4 = (encodePrefix k ft seq payload).length := by
      simp only [f, length_frameBytes_encodedFrame, length_encodePrefix]
      omega
    rw [hlen]
    exact slice_append_left _ _
  rw [hprefix]
  rfl

end Sys2Proof.Machine
end

section
/-! The successful outcomes of ENCODE and DECODE under an admitted configuration, as one next state each. -/

namespace Sys2Proof.Machine

open Sys2Proof.Safety

theorem maxFrameLen_of_wf {c : Config} (h : c.wf) : c.maxFrameLen = 1400 := by
  obtain ⟨-, -, hmax, -⟩ := h
  exact hmax

@[simp] theorem State.setStatus_output (v : Byte) (s : State) : (s.setStatus v).output = s.output := rfl

/-- ENCODE of a legal payload stores the wire bytes of its frame (41_frame_encode.md R73, R76). -/
theorem exec_encode_next {s : State} (hwf : s.cfg.wf) (ft : Byte) (seq : Half) {payload : List Byte}
    (hlen : 13 + payload.length ≤ 1400) :
    exec (.encode ft seq payload) s =
      .next ((s.usedCrc16.usedCrc32.storeOutput (frameBytes (encodedFrame s.cfg ft seq payload))).setStatus statusOk) := by
  have hserialize := (serialize_ok_iff s.cfg ft seq payload _).mpr ⟨(maxFrameLen_of_wf hwf).symm ▸ hlen, rfl⟩
  show runEncode ft seq payload s = _
  rw [runEncode, hserialize]
  rfl

/-- An input DECODE accepts is answered with its fields (42_frame_decode.md R80, R81). -/
theorem deserialize_of_accepts {c : Config} (hwf : c.wf) {input : List Byte} (h : Accepts c input) :
    deserialize c input = .ok (frameFields input) := by
  obtain ⟨hstartWf, hversionWf, hmaxWf, -⟩ := hwf
  obtain ⟨hmin, hmax, hheader, hframe, hstart, hversion, hfield⟩ := h
  have hcheck := (checkFrame_ok_iff c input (frameFields input) _).mpr
    ⟨rfl, hheader, hframe, hstart.trans hstartWf.symm, hversion.trans hversionWf.symm, hmaxWf.symm ▸ hfield⟩
  exact (deserialize_ok_iff c input _).mpr ⟨hmin, hmaxWf.symm ▸ hmax, hcheck⟩

/-- DECODE of an accepted input stores its fields and its payload (42_frame_decode.md R89). -/
theorem exec_decode_next {s : State} (hwf : s.cfg.wf) {input : List Byte} (h : Accepts s.cfg input) :
    exec (.decode input) s =
      .next (((s.usedCrc16.usedCrc32.storeFrame (frameFields input)).storeOutput
        (frameFields input).payload).setStatus statusOk) := by
  show runDecode input s = _
  rw [runDecode, deserialize_of_accepts hwf h]
  rfl

end Sys2Proof.Machine
end

section
/-! The command word (30_encoding.md R47, R48): its opcode byte and its fields. -/

namespace Sys2Proof.Machine

/-- The masked command word is the opcode byte. -/
theorem cmd_and_mask (c : Command) : c.cmd &&& 0xFF = c.op.setWidth 32 := by
  apply BitVec.eq_of_toNat_eq
  have hop : c.op.toNat = c.cmd.toNat % 2 ^ 8 := by simp [Command.op]
  rw [BitVec.toNat_and, BitVec.toNat_setWidth, hop]
  exact (Nat.and_two_pow_sub_one_eq_mod _ 8).trans (by omega)

theorem cmd_and_mask_eq_iff (c : Command) (b : Byte) : c.cmd &&& 0xFF = b.setWidth 32 ↔ c.op = b := by
  rw [cmd_and_mask]
  exact ⟨fun h => by simpa using congrArg (BitVec.setWidth 8) h, fun h => by rw [h]⟩

theorem op_append (upper : BitVec 24) (op : Byte) (input : List Byte) : (⟨upper ++ op, input⟩ : Command).op = op :=
  BitVec.extractLsb'_append_eq_right

theorem op_commandWord (op ft : Byte) (seq : Half) (input : List Byte) :
    (⟨commandWord op ft seq, input⟩ : Command).op = op := op_append _ _ _

theorem ft_commandWord (op ft : Byte) (seq : Half) (input : List Byte) :
    (⟨commandWord op ft seq, input⟩ : Command).ft = ft := by
  have hop := op.isLt
  have hft := ft.isLt
  apply BitVec.eq_of_toNat_eq
  rw [Command.ft, BitVec.extractLsb'_toNat, commandWord_toNat, Nat.shiftRight_eq_div_pow]
  omega

theorem seq_commandWord (op ft : Byte) (seq : Half) (input : List Byte) :
    (⟨commandWord op ft seq, input⟩ : Command).seq = seq := by
  have hop := op.isLt
  have hft := ft.isLt
  have hseq := seq.isLt
  apply BitVec.eq_of_toNat_eq
  rw [Command.seq, BitVec.extractLsb'_toNat, commandWord_toNat, Nat.shiftRight_eq_div_pow]
  omega

/-- Four opcodes select an operation; every other one is reserved (R48, R50). -/
theorem decode_ok_iff (k : Config) (c : Command) :
    (∃ i, decode k c = .ok i) ↔ c.op = 0x00 ∨ c.op = 0x01 ∨ c.op = 0x02 ∨ c.op = 0x03 := by
  obtain ⟨hop, h⟩ | ⟨hop, h⟩ | ⟨hop, h⟩ | ⟨hop, h⟩ | ⟨hop, h⟩ := decode_cases k c
  · simp [h, hop]
  · simp [h, hop]
  · simp [h, hop]
  · simp [h, hop]
  · have hreserved : ∀ b : Byte, b.toNat < 4 → c.op ≠ b := by
      rintro b hb rfl
      omega
    simp [h, hreserved]

/-- Away from ENCODE the decoder reads the opcode and the input only (R48). -/
theorem decode_congr_op (k : Config) {c d : Command} (hop : c.op = d.op) (hinput : c.input = d.input)
    (hencode : c.op ≠ 0x02) : decode k c = decode k d := by
  have hencode' : d.op ≠ 0x02 := hop ▸ hencode
  simp only [decode, hop, hinput, if_neg hencode']

/-- The word `SEQ, FT, 0x02` runs ENCODE with these operands, whichever of its rows is decoded (R47, R55). -/
theorem issue_commandWord_encode (ft : Byte) (seq : Half) (payload : List Byte) (s : State) :
    issue ⟨commandWord 0x02 ft seq, payload⟩ s = exec (.encode ft seq payload) s := by
  have hdecode : decode s.cfg ⟨commandWord 0x02 ft seq, payload⟩ = .ok (encodeForm s.cfg ft seq payload) := by
    simp [decode, op_commandWord, ft_commandWord, seq_commandWord]
  rw [issue, hdecode]
  exact exec_encodeForm s ft seq payload

end Sys2Proof.Machine
end

section
/-! The statements about the encodings (30_encoding.md). -/

namespace Sys2Proof.Safety

open Sys2Proof.Machine

/-- Settles O12: the two CRC fields of the emitted frame are read back from its bytes. -/
theorem encodedCrcsCoverTheirBytes : Obligations.EncodedCrcsCoverTheirBytes := by
  intro s ft seq payload hwf hlen
  refine ⟨_, exec_encode_next hwf ft seq hlen, ?_⟩
  have hfields := fieldsStandIn_frameBytes (encodedFrame s.cfg ft seq payload)
  rw [State.setStatus_output, storeOutput_output _ _ (by rw [length_frameBytes_encodedFrame]; omega)]
  constructor
  · rw [hfields.headerCrc16, le16_bytes16, headerCrc16_encodedFrame]
  · rw [hfields.frameCrc32, le32_bytes32, frameCrc32_encodedFrame]

/-- Settles O49: decoding splits on the opcode byte, and `commandWord` has the stated fields. -/
theorem opcodeAloneSelects : Obligations.OpcodeAloneSelects := by
  refine ⟨fun k c => ?_, issue_commandWord_encode, fun k upper op input hop => ?_⟩
  · have hmask := cmd_and_mask_eq_iff c
    rw [decode_ok_iff, ← hmask, ← hmask, ← hmask, ← hmask]
    rfl
  · refine decode_congr_op k ((op_append _ _ _).trans (op_append _ _ _).symm) rfl ?_
    rw [op_append]
    obtain rfl | rfl | rfl := hop <;> decide

/-- Settles O53: one layout, `FieldsStandIn`, read from any sequence of 13 bytes, emitted by the serializer, and held by
the wire bytes of any frame. -/
theorem frameFieldsStandAtTheirOffsets : Obligations.FrameFieldsStandAtTheirOffsets := by
  refine ⟨fun f hf => ?_, fun k ft seq payload f hserialize => ?_, fun x => ?_⟩
  · have hx := frameFields_standIn f hf
    have hpayload : (slice f 9 (f.length - 4)).length = f.length - 13 := by
      rw [length_slice]
      omega
    exact ⟨hx.start, hx.protocolVersion, le16_slice_toNat f (by omega), hx.frameType, le16_slice_toNat f (by omega),
      le16_slice_toNat f (by omega), hpayload, fun j hj => slice_getElem? f 9 (f.length - 4) j (by omega),
      le32_slice_last_toNat f (by omega)⟩
  · obtain ⟨-, rfl⟩ := (serialize_ok_iff k ft seq payload f).mp hserialize
    have hx := fieldsStandIn_frameBytes (encodedFrame k ft seq payload)
    have hn := length_frameBytes_encodedFrame k ft seq payload
    refine ⟨hn, hx.start, hx.protocolVersion, ?_, hx.frameType, hx.sequence, ?_, hx.payload, ?_⟩
    · rw [hx.length, hn]
      rfl
    · rw [hx.headerCrc16, headerCrc16_encodedFrame]
    · rw [hx.frameCrc32, frameCrc32_encodedFrame]
  · have hx := fieldsStandIn_frameBytes x
    exact ⟨hx.start, hx.protocolVersion, hx.length, hx.frameType, hx.sequence, hx.headerCrc16, hx.payload, hx.frameCrc32⟩

/-- Settles O15: byte 4 of the wire bytes is the type of the frame, in both directions. -/
theorem frameTypesAreCarriedUnchanged : Obligations.FrameTypesAreCarriedUnchanged := by
  refine ⟨fun s ft seq payload hwf hlen => ?_, fun s input hwf haccepts => ?_⟩
  · refine ⟨_, exec_encode_next hwf ft seq hlen, rfl, ?_⟩
    rw [State.setStatus_obuf, storeOutput_read]
    exact (fieldsStandIn_frameBytes (encodedFrame s.cfg ft seq payload)).frameType
  · have ⟨hmin, _⟩ := haccepts
    exact ⟨_, exec_decode_next hwf haccepts, rfl, (frameFields_standIn input hmin).frameType⟩

end Sys2Proof.Safety
end

section
/-! ENCODE's length check (41_frame_encode.md R75). -/

namespace Sys2Proof.Safety

open Sys2Proof.Machine

/-- The fields of the `STATUS` an error leaves are its code and its sub-code (60_exceptions.md R93). -/
theorem statusErr_errStatus (e : OpError) : statusErr (errStatus e) = errCode e := by cases e <;> decide

theorem statusSub_errStatus (e : OpError) : statusSub (errStatus e) = errSub e := by cases e <;> decide

/-- An error writes `STATUS` and nothing else a client sees (10_state.md R25, 60_exceptions.md R97). -/
theorem onlyStatus_setStatus (v : Byte) (s : State) : OnlyStatus s (s.setStatus v) := by
  simp [OnlyStatus, CrcRegsKept, FrameRegsKept, BufferKept, ClientKept]

/-- A use of both CRC engines changes the hidden registers alone (10_state.md R22). -/
theorem onlyStatus_usedCrcs_iff (s t : State) : OnlyStatus s.usedCrc16.usedCrc32 t ↔ OnlyStatus s t := Iff.rfl

/-- Settles O10: `runEncode_cases` splits on the length check, whose bound an admitted configuration fixes at 1400. -/
theorem encodeChecksTotalLength : Obligations.EncodeChecksTotalLength := by
  intro s ft seq payload hwf
  have hmax := maxFrameLen_of_wf hwf
  obtain ⟨hlarge, hrun⟩ | ⟨hfits, frame, -, hrun⟩ := runEncode_cases ft seq payload s
  · rw [hmax] at hlarge
    have honly := (onlyStatus_usedCrcs_iff s _).mp (onlyStatus_setStatus (errStatus .frameTooLargeSize) _)
    exact ⟨_, hrun, fun hfits => absurd hlarge (Nat.not_lt_of_le hfits), fun _ =>
      ⟨rfl, statusErr_errStatus _, statusSub_errStatus _, honly⟩⟩
  · rw [hmax] at hfits
    exact ⟨_, hrun, fun _ => rfl, fun hlarge => absurd hlarge (Nat.not_lt_of_le hfits)⟩

end Sys2Proof.Safety
end

section
/-! DECODE under an admitted configuration (42_frame_decode.md R80): its seven checks with the stated constants, and the
error each input is answered with. -/

namespace Sys2Proof.Machine

/-- The start byte is compared where it stands on the wire (42_frame_decode.md R86). -/
theorem frameFields_start_eq_iff {c : Config} (hwf : c.wf) {input : List Byte} (hmin : 13 ≤ input.length) :
    (frameFields input).start = c.startMarker ↔ input[0]? = some 0xAA := by
  obtain ⟨hstart, -⟩ := hwf
  rw [(frameFields_standIn input hmin).start, hstart, Option.some_inj]
  rfl

/-- The version byte is compared where it stands on the wire (R86). -/
theorem frameFields_protocolVersion_eq_iff {c : Config} (hwf : c.wf) {input : List Byte} (hmin : 13 ≤ input.length) :
    (frameFields input).protocolVersion = c.protocolVersion ↔ input[1]? = some 0x01 := by
  obtain ⟨-, hversion, -⟩ := hwf
  rw [(frameFields_standIn input hmin).protocolVersion, hversion, Option.some_inj]
  rfl

/-- DECODE's checks in the order of 60_exceptions.md R100, with the stated constants. -/
theorem deserialize_eq_of_wf {c : Config} (hwf : c.wf) (input : List Byte) :
    deserialize c input =
      if 1400 < input.length then .error .frameTooLargeSize
      else if input.length < 13 then .error .frameTooShort
      else if crc16 c (slice input 0 7) ≠ le16 (slice input 7 9) then .error .crcMismatchHeader
      else if crc32 c (slice input 0 (input.length - 4)) ≠ le32 (slice input (input.length - 4) input.length) then
        .error .crcMismatchFrame
      else if input[0]? ≠ some 0xAA then .error .badMarkerStart
      else if input[1]? ≠ some 0x01 then .error .badMarkerVersion
      else if 1400 < (le16 (slice input 2 4)).toNat then .error .frameTooLargeField
      else .ok (frameFields input) := by
  have hmax := maxFrameLen_of_wf hwf
  by_cases hshort : input.length < 13
  · simp only [deserialize, hmax, show input.length < Config.minFrameLen from hshort, hshort, if_true]
  · have hmin := Nat.le_of_not_lt hshort
    simp only [deserialize, checkFrame, hmax, ne_eq, frameFields_start_eq_iff hwf hmin,
      frameFields_protocolVersion_eq_iff hwf hmin]
    rfl

/-- Which inputs DECODE answers with an error (R82 to R87): every earlier check passes and this one fails.
No input makes it report a reserved opcode. -/
def FailsWith (c : Config) (input : List Byte) : OpError → Prop
  | .frameTooLargeSize => 1400 < input.length
  | .frameTooShort => input.length < 13
  | .crcMismatchHeader =>
    13 ≤ input.length ∧ input.length ≤ 1400 ∧ crc16 c (slice input 0 7) ≠ le16 (slice input 7 9)
  | .crcMismatchFrame =>
    13 ≤ input.length ∧ input.length ≤ 1400 ∧ crc16 c (slice input 0 7) = le16 (slice input 7 9) ∧
      crc32 c (slice input 0 (input.length - 4)) ≠ le32 (slice input (input.length - 4) input.length)
  | .badMarkerStart =>
    13 ≤ input.length ∧ input.length ≤ 1400 ∧ crc16 c (slice input 0 7) = le16 (slice input 7 9) ∧
      crc32 c (slice input 0 (input.length - 4)) = le32 (slice input (input.length - 4) input.length) ∧
      input[0]? ≠ some 0xAA
  | .badMarkerVersion =>
    13 ≤ input.length ∧ input.length ≤ 1400 ∧ crc16 c (slice input 0 7) = le16 (slice input 7 9) ∧
      crc32 c (slice input 0 (input.length - 4)) = le32 (slice input (input.length - 4) input.length) ∧
      input[0]? = some 0xAA ∧ input[1]? ≠ some 0x01
  | .frameTooLargeField =>
    13 ≤ input.length ∧ input.length ≤ 1400 ∧ crc16 c (slice input 0 7) = le16 (slice input 7 9) ∧
      crc32 c (slice input 0 (input.length - 4)) = le32 (slice input (input.length - 4) input.length) ∧
      input[0]? = some 0xAA ∧ input[1]? = some 0x01 ∧ 1400 < (le16 (slice input 2 4)).toNat
  | .illegalOp => False

theorem failsWith_of_deserialize_error {c : Config} (hwf : c.wf) {input : List Byte} {e : OpError}
    (h : deserialize c input = .error e) : FailsWith c input e := by
  rw [deserialize_eq_of_wf hwf] at h
  split_ifs at h with hlarge hshort hheader hframe hstart hversion hfield <;> cases h
  · exact hlarge
  · exact hshort
  all_goals have hmin := Nat.le_of_not_lt hshort
  all_goals have hmax := Nat.le_of_not_lt hlarge
  · exact ⟨hmin, hmax, hheader⟩
  · exact ⟨hmin, hmax, not_not.mp hheader, hframe⟩
  · exact ⟨hmin, hmax, not_not.mp hheader, not_not.mp hframe, hstart⟩
  · exact ⟨hmin, hmax, not_not.mp hheader, not_not.mp hframe, not_not.mp hstart, hversion⟩
  · exact ⟨hmin, hmax, not_not.mp hheader, not_not.mp hframe, not_not.mp hstart, not_not.mp hversion, hfield⟩

theorem deserialize_error_of_failsWith {c : Config} (hwf : c.wf) {input : List Byte} {e : OpError}
    (h : FailsWith c input e) : deserialize c input = .error e := by
  rw [deserialize_eq_of_wf hwf]
  cases e with
  | frameTooLargeSize => exact if_pos h
  | frameTooShort =>
    have hshort : input.length < 13 := h
    rw [if_neg (by omega), if_pos hshort]
  | crcMismatchHeader =>
    obtain ⟨hmin, hmax, hheader⟩ := h
    rw [if_neg hmax.not_gt, if_neg hmin.not_gt, if_pos hheader]
  | crcMismatchFrame =>
    obtain ⟨hmin, hmax, hheader, hframe⟩ := h
    rw [if_neg hmax.not_gt, if_neg hmin.not_gt, if_neg (not_not.mpr hheader), if_pos hframe]
  | badMarkerStart =>
    obtain ⟨hmin, hmax, hheader, hframe, hstart⟩ := h
    rw [if_neg hmax.not_gt, if_neg hmin.not_gt, if_neg (not_not.mpr hheader), if_neg (not_not.mpr hframe), if_pos hstart]
  | badMarkerVersion =>
    obtain ⟨hmin, hmax, hheader, hframe, hstart, hversion⟩ := h
    rw [if_neg hmax.not_gt, if_neg hmin.not_gt, if_neg (not_not.mpr hheader), if_neg (not_not.mpr hframe),
      if_neg (not_not.mpr hstart), if_pos hversion]
  | frameTooLargeField =>
    obtain ⟨hmin, hmax, hheader, hframe, hstart, hversion, hfield⟩ := h
    rw [if_neg hmax.not_gt, if_neg hmin.not_gt, if_neg (not_not.mpr hheader), if_neg (not_not.mpr hframe),
      if_neg (not_not.mpr hstart), if_neg (not_not.mpr hversion), if_pos hfield]
  | illegalOp => exact h.elim

theorem deserialize_error_iff {c : Config} (hwf : c.wf) (input : List Byte) (e : OpError) :
    deserialize c input = .error e ↔ FailsWith c input e :=
  ⟨failsWith_of_deserialize_error hwf, deserialize_error_of_failsWith hwf⟩

/-- The error that a `STATUS` value reports, if any (60_exceptions.md R93). -/
def reportedError (status : Byte) : Option OpError :=
  if status = 0x01 then some .frameTooLargeSize
  else if status = 0x11 then some .frameTooLargeField
  else if status = 0x02 then some .badMarkerStart
  else if status = 0x12 then some .badMarkerVersion
  else if status = 0x03 then some .crcMismatchHeader
  else if status = 0x13 then some .crcMismatchFrame
  else if status = 0x04 then some .frameTooShort
  else if status = 0x05 then some .illegalOp
  else none

theorem reportedError_errStatus (e : OpError) : reportedError (errStatus e) = some e := by cases e <;> rfl

/-- No two errors report the same `STATUS` (R93). -/
theorem errStatus_inj {e e' : OpError} : errStatus e = errStatus e' ↔ e = e' := by
  refine ⟨fun h => Option.some_inj.mp ?_, congrArg errStatus⟩
  rw [← reportedError_errStatus e, ← reportedError_errStatus e', h]

end Sys2Proof.Machine
end

section
/-! The statements about DECODE (42_frame_decode.md): what a success writes (R88, R89), that a failure writes `STATUS` alone
(R92), and which `STATUS` reports which check (R82 to R85, R87). -/

namespace Sys2Proof.Safety

open Sys2Proof.Machine

/-- All DECODE can do, as a client sees it: report an error in `STATUS` alone, or succeed (R89, R92). -/
theorem exec_decode_visible (s : State) (input : List Byte) :
    ∃ t, exec (.decode input) s = .next t ∧
      ((∃ e, deserialize s.cfg input = .error e ∧ t.status = errStatus e ∧ OnlyStatus s t) ∨
        ((∃ f, deserialize s.cfg input = .ok f) ∧ t.status = 0)) := by
  obtain ⟨e, hfail, hrun⟩ | ⟨f, hpass, hrun⟩ := runDecode_cases input s
  · have honly := (onlyStatus_usedCrcs_iff s _).mp (onlyStatus_setStatus (errStatus e) _)
    exact ⟨_, hrun, .inl ⟨e, hfail, rfl, honly⟩⟩
  · exact ⟨_, hrun, .inr ⟨⟨f, hpass⟩, rfl⟩⟩

/-- DECODE reports an error exactly on the inputs that fail with it, by its code and sub-code, and writes nothing but
`STATUS` then (R93, R97). -/
theorem exec_decode_reports {s : State} (hwf : s.cfg.wf) (input : List Byte) (e : OpError) :
    ∃ t, exec (.decode input) s = .next t ∧ (t.status = errStatus e ↔ FailsWith s.cfg input e) ∧
      (FailsWith s.cfg input e → statusErr t.status = errCode e ∧ statusSub t.status = errSub e ∧ OnlyStatus s t) := by
  simp only [← deserialize_error_iff hwf]
  obtain ⟨t, hexec, ⟨e', hfail, hstatus, honly⟩ | ⟨⟨f, hpass⟩, hstatus⟩⟩ := exec_decode_visible s input
  · refine ⟨t, hexec, by rw [hstatus, hfail, errStatus_inj, Except.error.injEq], fun h => ?_⟩
    obtain rfl : e' = e := Except.error.inj (hfail.symm.trans h)
    exact ⟨hstatus ▸ statusErr_errStatus e', hstatus ▸ statusSub_errStatus e', honly⟩
  · have hnever : deserialize s.cfg input ≠ .error e := by simp [hpass]
    exact ⟨t, hexec, iff_of_false (hstatus ▸ (errStatus_ne_zero e).symm) hnever, fun h => absurd h hnever⟩

/-- Settles O16: `exec_decode_next` gives the next state; what is left is the size and the bytes of the payload. -/
theorem decodeWritesFrame : Obligations.DecodeWritesFrame := by
  intro s input hwf haccepts
  have ⟨_, hmax, _⟩ := haccepts
  have hsize := length_payload_of_deserialize (deserialize_of_accepts hwf haccepts)
  refine ⟨_, exec_decode_next hwf haccepts, rfl, rfl, rfl, rfl, rfl, rfl, rfl, rfl, ?_, fun a => ?_,
    ⟨rfl, rfl⟩, ⟨rfl, rfl, rfl⟩⟩
  · rw [State.setStatus_olen, State.storeOutput_olen, hsize, BitVec.toNat_ofNat]
    omega
  · rw [State.setStatus_obuf, storeOutput_read]
    rfl

/-- Settles O17: the size check comes first and reads no byte. -/
theorem decodeRejectsTooLarge : Obligations.DecodeRejectsTooLarge :=
  fun _ input hwf => exec_decode_reports hwf input .frameTooLargeSize

/-- Settles O18: the second size check, made before any slice is taken. -/
theorem decodeRejectsTooShort : Obligations.DecodeRejectsTooShort :=
  fun _ input hwf => exec_decode_reports hwf input .frameTooShort

/-- Settles O19: the header CRC is the first check on the contents, before the markers. -/
theorem decodeRejectsHeaderCrc : Obligations.DecodeRejectsHeaderCrc :=
  fun _ input hwf => exec_decode_reports hwf input .crcMismatchHeader

/-- Settles O20: the frame CRC is checked once the header CRC matched. -/
theorem decodeRejectsFrameCrc : Obligations.DecodeRejectsFrameCrc :=
  fun _ input hwf => exec_decode_reports hwf input .crcMismatchFrame

/-- Settles O22: the size check passed, so a field over 1400 is over the real size. -/
theorem decodeRejectsLengthField : Obligations.DecodeRejectsLengthField := by
  intro s input hwf
  obtain ⟨t, hexec, hstatus, hreport⟩ := exec_decode_reports hwf input .frameTooLargeField
  refine ⟨t, hexec, hstatus, fun hwrong => ?_⟩
  obtain ⟨herr, hsub, honly⟩ := hreport hwrong
  obtain ⟨-, hmax, -, -, -, -, hfield⟩ := hwrong
  exact ⟨herr, hsub, Nat.lt_of_le_of_lt hmax hfield, honly⟩

/-- Settles O23: the checks do not compare the field with the size, so the frame is written as any other. -/
theorem decodeIgnoresLengthMismatch : Obligations.DecodeIgnoresLengthMismatch := by
  intro s input hwf haccepts _
  obtain ⟨t, hexec, hstatus, -, -, hlength, -, -, -, -, holen, -⟩ := decodeWritesFrame s input hwf haccepts
  exact ⟨t, hexec, hstatus, hlength, holen⟩

/-- Settles O25: of the two outcomes only an error leaves a `STATUS` other than 0. -/
theorem failedDecodeChangesOnlyStatus : Obligations.FailedDecodeChangesOnlyStatus := by
  intro s input
  obtain ⟨t, hexec, ⟨e, -, -, honly⟩ | ⟨-, hstatus⟩⟩ := exec_decode_visible s input
  · exact ⟨t, hexec, fun _ => honly⟩
  · exact ⟨t, hexec, fun hfailed => absurd hstatus hfailed⟩

end Sys2Proof.Safety
end

section
/-! What `raise` does (60_exceptions.md R97) and how a reserved opcode is answered (R99, 30_encoding.md R50). -/

namespace Sys2Proof.Machine

theorem op_toNat (c : Command) : c.op.toNat = c.cmd.toNat % 256 := by
  simp [Command.op]

/-- Every opcode from 4 on is reserved (30_encoding.md R50). -/
theorem decode_of_four_le_op {c : Command} (hop : 4 ≤ c.op.toNat) (k : Config) :
    decode k c = .error (.reservedOpcode c.op) := by
  obtain ⟨h, -⟩ | ⟨h, -⟩ | ⟨h, -⟩ | ⟨h, -⟩ | ⟨-, h⟩ := decode_cases k c
  case inr.inr.inr.inr => exact h
  all_goals exact absurd hop (by rw [h]; decide)

/-- A reserved opcode is answered in `STATUS`, whatever the rest of the command word and the input (60_exceptions.md R99). -/
theorem issue_of_four_le_op {c : Command} (hop : 4 ≤ c.op.toNat) (s : State) :
    issue c s = .next (s.setStatus (errStatus .illegalOp)) := by
  obtain ⟨i, hdecode, -⟩ | ⟨-, -, hissue⟩ := issue_cases c s
  · rw [decode_of_four_le_op hop] at hdecode
    cases hdecode
  · exact hissue

end Sys2Proof.Machine

namespace Sys2Proof.Safety

open Sys2Proof.Machine

/-- Bits 7..6 of the `STATUS` an error leaves are 0 (60_exceptions.md R97). -/
theorem statusTop_errStatus (e : OpError) : (errStatus e).extractLsb' 6 2 = 0 := by cases e <;> decide

theorem hiddenKept_setStatus (v : Byte) (s : State) : HiddenKept s (s.setStatus v) := ⟨rfl, rfl, rfl, rfl⟩

/-- Settles O29: `raise` sets `STATUS` to `errStatus e`, whose fields are those of the error, by case on the error. -/
theorem raiseWritesOnlyStatus : Obligations.RaiseWritesOnlyStatus := by
  refine ⟨fun e s => ⟨s.setStatus (errStatus e), rfl, ?_⟩, by decide⟩
  rw [State.setStatus_status]
  exact ⟨statusErr_errStatus e, statusSub_errStatus e, statusTop_errStatus e, onlyStatus_setStatus _ s,
    hiddenKept_setStatus _ s⟩

/-- Settles O30: the decoder reserves the opcode, and the error that answers it writes `STATUS` alone. -/
theorem reservedOpcodeIsIllegalOp : Obligations.ReservedOpcodeIsIllegalOp := by
  intro s cmd input hlow
  have hop : 4 ≤ (⟨cmd, input⟩ : Command).op.toNat := by rwa [op_toNat]
  exact ⟨_, issue_of_four_le_op hop s, rfl, onlyStatus_setStatus _ s, hiddenKept_setStatus _ s⟩

end Sys2Proof.Safety
end

section
/-! The frame ENCODE leaves in `OBUF`, and DECODE of it (41_frame_encode.md R73 to R79, 42_frame_decode.md R89). -/

namespace Sys2Proof.Machine

open Sys2Proof.Safety

/-- The state a successful ENCODE of a legal payload leaves (`exec_encode_next`). -/
def encodedState (s : State) (ft : Byte) (seq : Half) (payload : List Byte) : State :=
  (s.usedCrc16.usedCrc32.storeOutput (frameBytes (encodedFrame s.cfg ft seq payload))).setStatus statusOk

theorem exec_encode_encodedState {s : State} (hwf : s.cfg.wf) (ft : Byte) (seq : Half) {payload : List Byte}
    (hlen : 13 + payload.length ≤ 1400) :
    exec (.encode ft seq payload) s = .next (encodedState s ft seq payload) := exec_encode_next hwf ft seq hlen

theorem output_encodedState (s : State) (ft : Byte) (seq : Half) {payload : List Byte}
    (hlen : 13 + payload.length ≤ 1400) :
    (encodedState s ft seq payload).output = frameBytes (encodedFrame s.cfg ft seq payload) := by
  rw [encodedState, State.setStatus_output, storeOutput_output]
  rw [length_frameBytes_encodedFrame]
  omega

theorem encodedState_applied (s : State) (ft : Byte) (seq : Half) (payload : List Byte) :
    (Writes.ofEncoded (frameBytes (encodedFrame s.cfg ft seq payload))).Applied s (encodedState s ft seq payload) :=
  (Writes.applied_usedCrcs_iff _ _ _).mp (Writes.ofEncoded_applied _ _)

theorem obuf_read_encodedState (s : State) (ft : Byte) (seq : Half) (payload : List Byte) (a : Nat) :
    (encodedState s ft seq payload).obuf.read a = (frameBytes (encodedFrame s.cfg ft seq payload))[a]? := by
  rw [encodedState, State.setStatus_obuf, storeOutput_read]

theorem olen_encodedState (s : State) (ft : Byte) (seq : Half) {payload : List Byte}
    (hlen : 13 + payload.length ≤ 1400) : (encodedState s ft seq payload).olen.toNat = 13 + payload.length := by
  rw [encodedState, State.setStatus_olen, State.storeOutput_olen, length_frameBytes_encodedFrame, BitVec.toNat_ofNat]
  omega

/-- The bytes of a length below 2^16 are those of the number itself. -/
theorem bytes16_ofNat {n : Nat} (h : n < 65536) :
    bytes16 (BitVec.ofNat 16 n) = [BitVec.ofNat 8 n, BitVec.ofNat 8 (n / 256)] := by
  rw [bytes16_toNat, BitVec.toNat_ofNat, Nat.mod_eq_of_lt h]

/-- The 7 header bytes under the stated constants, as 41_frame_encode.md R73 lists them. -/
theorem encodeHeader_of_wf {c : Config} (hwf : c.wf) (ft : Byte) (seq : Half) {n : Nat} (h : n < 65536) :
    encodeHeader c ft seq n =
      [0xAA, 0x01, BitVec.ofNat 8 n, BitVec.ofNat 8 (n / 256), ft, seq.extractLsb' 0 8, seq.extractLsb' 8 8] := by
  obtain ⟨hstart, hversion, -⟩ := hwf
  rw [encodeHeader, headerBytes, bytes16_ofNat h, hstart, hversion]
  rfl

/-- The wire bytes of a frame with right CRCs, right markers and a legal `length` field are accepted. -/
theorem accepts_frameBytes {c : Config} (hwf : c.wf) {f : Frame} (hstart : f.start = c.startMarker)
    (hversion : f.protocolVersion = c.protocolVersion) (hlen : 13 + f.payload.length ≤ 1400)
    (hfield : f.length.toNat ≤ 1400)
    (hheader : f.headerCrc16 = crc16 c (slice (frameBytes f) 0 7))
    (hframe : f.frameCrc32 = crc32 c (slice (frameBytes f) 0 ((frameBytes f).length - 4))) :
    Accepts c (frameBytes f) := by
  obtain ⟨hstartWf, hversionWf, -⟩ := hwf
  have hx := fieldsStandIn_frameBytes f
  have hn := length_frameBytes f
  refine ⟨by omega, by omega, ?_, ?_, ?_, ?_, ?_⟩
  · rw [hx.headerCrc16, le16_bytes16, hheader]
  · rw [hx.frameCrc32, le32_bytes32, hframe]
  · rw [List.getD_eq_getElem?_getD, hx.start, hstart, hstartWf]
    rfl
  · rw [List.getD_eq_getElem?_getD, hx.protocolVersion, hversion, hversionWf]
    rfl
  · rwa [hx.length, le16_bytes16]

theorem length_encodedFrame_toNat (k : Config) (ft : Byte) (seq : Half) {payload : List Byte}
    (hlen : 13 + payload.length ≤ 1400) : (encodedFrame k ft seq payload).length.toNat = 13 + payload.length := by
  show (BitVec.ofNat 16 (13 + payload.length)).toNat = _
  rw [BitVec.toNat_ofNat]
  omega

/-- DECODE accepts what ENCODE built (41_frame_encode.md R77). -/
theorem accepts_encodedFrame {c : Config} (hwf : c.wf) (ft : Byte) (seq : Half) {payload : List Byte}
    (hlen : 13 + payload.length ≤ 1400) : Accepts c (frameBytes (encodedFrame c ft seq payload)) :=
  accepts_frameBytes hwf rfl rfl hlen ((length_encodedFrame_toNat c ft seq hlen).symm ▸ hlen)
    (headerCrc16_encodedFrame c ft seq payload) (frameCrc32_encodedFrame c ft seq payload)

/-- Every byte an encoded frame holds outside its two CRC fields is one of the first 7 or of the payload. -/
theorem getElem?_frameBytes_encodedFrame (k : Config) (ft : Byte) (seq : Half) (payload : List Byte) {a : Nat}
    (ha : a < 7 ∨ (9 ≤ a ∧ a < 9 + payload.length)) :
    (frameBytes (encodedFrame k ft seq payload))[a]? =
      if a < 7 then (encodeHeader k ft seq (Config.overhead + payload.length))[a]? else payload[a - 9]? := by
  rw [frameBytes_encodedFrame, encodePrefix]
  obtain ha | ⟨hmin, hmax⟩ := ha
  · rw [if_pos ha, List.append_assoc, List.append_assoc, List.getElem?_append_left (by simpa using ha)]
  · rw [if_neg (by omega), List.getElem?_append_left (by simp; omega), List.getElem?_append_right (by simp; omega)]
    rfl

/-- DECODE of the wire bytes of an acceptable frame stores that frame and its payload (42_frame_decode.md R89). -/
theorem exec_decode_frameBytes {s : State} (hwf : s.cfg.wf) {f : Frame} (h : Accepts s.cfg (frameBytes f)) :
    exec (.decode (frameBytes f)) s =
      .next (((s.usedCrc16.usedCrc32.storeFrame f).storeOutput f.payload).setStatus statusOk) := by
  rw [exec_decode_next hwf h, frameFields_frameBytes]

end Sys2Proof.Machine

namespace Sys2Proof.Safety

open Sys2Proof.Machine

/-- Settles O27: the frame is accepted (`accepts_encodedFrame`) and its fields are those it was built from. -/
theorem decodeUndoesEncode : Obligations.DecodeUndoesEncode := by
  intro s v ft seq payload hwf hcfg hpayload
  have hlen : 13 + payload.length ≤ 1400 := by omega
  have haccepts : Accepts v.cfg (frameBytes (encodedFrame s.cfg ft seq payload)) := by
    rw [hcfg]
    exact accepts_encodedFrame hwf ft seq hlen
  have hx := fieldsStandIn_frameBytes (encodedFrame s.cfg ft seq payload)
  have hfield := length_encodedFrame_toNat s.cfg ft seq hlen
  have hstored : payload.length < 2 ^ 11 := by omega
  have hdecode := exec_decode_frameBytes (hcfg ▸ hwf) haccepts
  rw [← output_encodedState s ft seq hlen] at hdecode
  refine ⟨_, _, exec_encode_encodedState hwf ft seq hlen, hdecode, ?_⟩
  obtain ⟨hstart, hversion, -⟩ := hwf
  rw [output_encodedState s ft seq hlen]
  refine ⟨rfl, hstart, hversion, hfield, ?_, rfl, rfl, ?_, ?_, ?_, ?_⟩
  · rw [length_frameBytes_encodedFrame]
    exact hfield
  · rw [hx.headerCrc16, le16_bytes16]
    rfl
  · rw [hx.frameCrc32, le32_bytes32]
    rfl
  · exact (BitVec.toNat_ofNat payload.length 11).trans (Nat.mod_eq_of_lt hstored)
  · rw [State.setStatus_output]
    exact storeOutput_output payload _ hstored

/-- Settles O8: the emitted bytes are the wire bytes of `encodedFrame`, whose header the stated constants fix. -/
theorem encodeWritesFrame : Obligations.EncodeWritesFrame := by
  intro s ft seq payload hwf hlen
  have hheader := encodeHeader_of_wf hwf ft seq (show 13 + payload.length < 65536 by omega)
  obtain ⟨hstatus, hcrc16, hcrc32, hframe, -, hclient⟩ := encodedState_applied s ft seq payload
  refine ⟨_, exec_encode_encodedState hwf ft seq hlen, hstatus, olen_encodedState s ft seq hlen, fun a => ?_,
    ⟨hcrc16, hcrc32⟩, hframe, hclient⟩
  rw [obuf_read_encodedState, frameBytes_encodedFrame, ← hheader]
  rfl

/-- The shorter rows of ENCODE run it with the stated frame types (R79). -/
theorem exec_encodeCmd {s : State} (hwf : s.cfg.wf) (seq : Half) (payload : List Byte) :
    exec (.encodeCmd seq payload) s = exec (.encode 0x00 seq payload) s := by
  obtain ⟨-, -, -, hcmd, -⟩ := hwf
  exact congrArg (runEncode · seq payload s) hcmd

theorem exec_encodeAkn {s : State} (hwf : s.cfg.wf) (seq : Half) (payload : List Byte) :
    exec (.encodeAkn seq payload) s = exec (.encode 0x01 seq payload) s := by
  obtain ⟨-, -, -, -, hakn, -⟩ := hwf
  exact congrArg (runEncode · seq payload s) hakn

theorem exec_encodeMsg {s : State} (hwf : s.cfg.wf) (seq : Half) (payload : List Byte) :
    exec (.encodeMsg seq payload) s = exec (.encode 0x02 seq payload) s := by
  obtain ⟨-, -, -, -, -, hmsg, -⟩ := hwf
  exact congrArg (runEncode · seq payload s) hmsg

/-- Settles O9: each shorter row runs ENCODE with its own frame type, a stated constant. -/
theorem encodeAliasesWriteFrame : Obligations.EncodeAliasesWriteFrame := by
  intro s seq payload hwf hlen
  rw [exec_encodeCmd hwf, exec_encodeAkn hwf, exec_encodeMsg hwf]
  exact ⟨encodeWritesFrame s 0x00 seq payload hwf hlen, encodeWritesFrame s 0x01 seq payload hwf hlen,
    encodeWritesFrame s 0x02 seq payload hwf hlen⟩

/-- The one error of ENCODE, with its effect (R75). -/
theorem exec_encode_too_large {s : State} (hwf : s.cfg.wf) (ft : Byte) (seq : Half) {payload : List Byte}
    (hlarge : 1400 < 13 + payload.length) :
    ∃ t, exec (.encode ft seq payload) s = .next t ∧ t.status = 0x01 ∧ OnlyStatus s t := by
  obtain ⟨t, hexec, -, herror⟩ := encodeChecksTotalLength s ft seq payload hwf
  obtain ⟨hstatus, -, -, honly⟩ := herror hlarge
  exact ⟨t, hexec, hstatus, honly⟩

/-- Settles O11: each shorter row runs ENCODE, and so has its error. -/
theorem encodeAliasesCheckLength : Obligations.EncodeAliasesCheckLength := by
  intro s seq payload hwf hlarge
  rw [exec_encodeCmd hwf, exec_encodeAkn hwf, exec_encodeMsg hwf]
  exact ⟨exec_encode_too_large hwf 0x00 seq hlarge, exec_encode_too_large hwf 0x01 seq hlarge,
    exec_encode_too_large hwf 0x02 seq hlarge⟩

/-- Settles O13: the field is read back from bytes 2 and 3 of the emitted frame. -/
theorem encodedLengthFieldIsTotal : Obligations.EncodedLengthFieldIsTotal := by
  intro s ft seq payload hwf hlen
  refine ⟨_, exec_encode_encodedState hwf ft seq hlen, ?_⟩
  rw [output_encodedState s ft seq hlen, length_frameBytes_encodedFrame,
    (fieldsStandIn_frameBytes (encodedFrame s.cfg ft seq payload)).length, le16_bytes16]
  exact ⟨rfl, length_encodedFrame_toNat s.cfg ft seq hlen⟩

/-- Settles O14: outside the CRC fields a byte is of the header, which the stated constants fix, or of the payload. -/
theorem encodedFrameOutsideCrcsIsParameterFree : Obligations.EncodedFrameOutsideCrcsIsParameterFree := by
  intro s u ft seq payload hs hu hlen
  refine ⟨_, _, exec_encode_encodedState hs ft seq hlen, exec_encode_encodedState hu ft seq hlen, fun a ha => ?_⟩
  have htotal : Config.overhead + payload.length < 65536 := by
    show 13 + payload.length < 65536
    omega
  rw [obuf_read_encodedState, obuf_read_encodedState, getElem?_frameBytes_encodedFrame _ _ _ _ ha,
    getElem?_frameBytes_encodedFrame _ _ _ _ ha, encodeHeader_of_wf hs ft seq htotal,
    encodeHeader_of_wf hu ft seq htotal]

end Sys2Proof.Safety
end

section
/-! The outcome of DECODE as one `STATUS` value (60_exceptions.md R100), and the frames it loads (42_frame_decode.md
R89). -/

namespace Sys2Proof.Machine

open Sys2Proof.Safety

/-- The `STATUS` that reports a result of `deserialize` (60_exceptions.md R93). -/
def decodeStatus : Except OpError Frame → Byte
  | .error e => errStatus e
  | .ok _ => 0

/-- DECODE completes on every input, and its `STATUS` reports the result of its checks. -/
theorem exec_decode_status (s : State) (input : List Byte) :
    ∃ t, exec (.decode input) s = .next t ∧ t.status = decodeStatus (deserialize s.cfg input) := by
  obtain ⟨t, hexec, ⟨e, hfail, hstatus, -⟩ | ⟨⟨f, hpass⟩, hstatus⟩⟩ := exec_decode_visible s input
  · exact ⟨t, hexec, by rw [hfail, hstatus]; rfl⟩
  · exact ⟨t, hexec, by rw [hpass, hstatus]; rfl⟩

/-- What the header CRC covers in a frame's wire bytes: the 7 header bytes (30_encoding.md R45). -/
theorem slice_header_frameBytes (f : Frame) :
    slice (frameBytes f) 0 7 = headerBytes f.start f.protocolVersion f.length f.frameType f.sequence := by
  rw [frameBytes, List.append_assoc, List.append_assoc]
  exact slice_append_left _ _

/-- What the frame CRC covers in a frame's wire bytes: everything before it (R45). -/
theorem slice_body_frameBytes (f : Frame) :
    slice (frameBytes f) 0 ((frameBytes f).length - 4) =
      headerBytes f.start f.protocolVersion f.length f.frameType f.sequence ++ bytes16 f.headerCrc16 ++ f.payload := by
  have hlen : (frameBytes f).length - 4 =
      (headerBytes f.start f.protocolVersion f.length f.frameType f.sequence ++ bytes16 f.headerCrc16 ++
        f.payload).length := by
    rw [frameBytes, List.length_append, length_bytes32, Nat.add_sub_cancel]
  rw [hlen]
  exact slice_append_left _ _

/-- The two CRCs a typed frame must carry to be accepted (R45), over its header under the stated constants. -/
def TypedFrameSound (c : Config) (ft : Byte) (length seq hcrc : Half) (payload : List Byte) (fcrc : Word) : Prop :=
  let hdr := headerBytes Config.statedStartMarker Config.statedProtocolVersion length ft seq
  hcrc = crc16 c hdr ∧ fcrc = crc32 c (hdr ++ bytes16 hcrc ++ payload)

/-- DECODE of a sound typed frame loads it, whatever its type (42_frame_decode.md R89). -/
theorem exec_decode_typedFrameBytes {s : State} (hwf : s.cfg.wf) {ft : Byte} {length seq hcrc : Half}
    {payload : List Byte} {fcrc : Word} (hlen : 13 + payload.length ≤ 1400) (hfield : length.toNat ≤ 1400)
    (hsound : TypedFrameSound s.cfg ft length seq hcrc payload fcrc) :
    ∃ t, exec (.decode (typedFrameBytes s.cfg ft length seq hcrc payload fcrc)) s = .next t ∧
      FrameLoaded s ft length seq hcrc payload fcrc t := by
  have ⟨hstart, hversion, _⟩ := hwf
  obtain ⟨hheader, hframe⟩ := hsound
  rw [← hstart, ← hversion] at hheader hframe
  have haccepts : Accepts s.cfg (typedFrameBytes s.cfg ft length seq hcrc payload fcrc) := by
    refine accepts_frameBytes hwf rfl rfl hlen hfield ?_ ?_
    · rw [slice_header_frameBytes]
      exact hheader
    · rw [slice_body_frameBytes]
      exact hframe
  have hstored : payload.length < 2 ^ 11 := by omega
  obtain ⟨hstatus, hcrc16, hcrc32, ⟨hfstart, hfversion, hfields⟩, ⟨holen, hobuf⟩, hclient⟩ :=
    (Writes.applied_usedCrcs_iff _ s _).mp (Writes.ofDecoded_applied _ _)
  obtain ⟨hflength, hftype, hfseq, hfhcrc, hffcrc⟩ := hfields
  refine ⟨_, exec_decode_frameBytes hwf haccepts, hstatus, hfstart.trans hstart, hfversion.trans hversion, hflength,
    hftype, hfseq, hfhcrc, hffcrc, ?_, hobuf, ⟨hcrc16, hcrc32⟩, hclient⟩
  rw [holen, BitVec.toNat_ofNat]
  exact Nat.mod_eq_of_lt hstored

end Sys2Proof.Machine

namespace Sys2Proof.Safety

open Sys2Proof.Machine

/-- Settles O24: `deserialize_eq_of_wf` lists the checks in order, and each error has its `STATUS`. -/
theorem decodeReportsFirstFailure : Obligations.DecodeReportsFirstFailure := by
  intro s input hwf n
  obtain ⟨t, hexec, hstatus⟩ := exec_decode_status s input
  refine ⟨t, hexec, ?_⟩
  rw [hstatus, deserialize_eq_of_wf hwf]
  simp only [apply_ite decodeStatus]
  rfl

/-- Settles O21: the two marker errors, each exactly on the inputs that fail with it. -/
theorem decodeRejectsMarkers : Obligations.DecodeRejectsMarkers := by
  intro s input hwf n sound
  obtain ⟨t, hexec, hstart, hstartReport⟩ := exec_decode_reports hwf input .badMarkerStart
  obtain ⟨u, hexec', hversion, hversionReport⟩ := exec_decode_reports hwf input .badMarkerVersion
  obtain rfl : t = u := Host.Outcome.next.inj (hexec.symm.trans hexec')
  have honly : t.status = 0x02 ∨ t.status = 0x12 → OnlyStatus s t := by
    rintro (h | h)
    · obtain ⟨-, -, honly⟩ := hstartReport (hstart.mp h)
      exact honly
    · obtain ⟨-, -, honly⟩ := hversionReport (hversion.mp h)
      exact honly
  refine ⟨t, hexec, hstart.trans ?_, hversion.trans ?_, honly⟩
  · exact ⟨fun ⟨hmin, hmax, hheader, hframe, hwrong⟩ => ⟨⟨hmin, hmax, hheader, hframe⟩, hwrong⟩,
      fun ⟨⟨hmin, hmax, hheader, hframe⟩, hwrong⟩ => ⟨hmin, hmax, hheader, hframe, hwrong⟩⟩
  · exact ⟨fun ⟨hmin, hmax, hheader, hframe, hwrong⟩ => ⟨⟨hmin, hmax, hheader, hframe⟩, hwrong⟩,
      fun ⟨⟨hmin, hmax, hheader, hframe⟩, hwrong⟩ => ⟨hmin, hmax, hheader, hframe, hwrong⟩⟩

/-- The frame rows run the DECODE of their frames, with the stated frame types (log 8). -/
theorem exec_frameCmd {s : State} (hwf : s.cfg.wf) (length seq hcrc : Half) (payload : List Byte) (fcrc : Word) :
    exec (.frameCmd length seq hcrc payload fcrc) s =
      exec (.decode (typedFrameBytes s.cfg 0 length seq hcrc payload fcrc)) s := by
  obtain ⟨-, -, -, hcmd, -⟩ := hwf
  exact congrArg (fun ft => runDecode (typedFrameBytes s.cfg ft length seq hcrc payload fcrc) s) hcmd

theorem exec_frameAkn {s : State} (hwf : s.cfg.wf) (length seq hcrc : Half) (payload : List Byte) (fcrc : Word) :
    exec (.frameAkn length seq hcrc payload fcrc) s =
      exec (.decode (typedFrameBytes s.cfg 1 length seq hcrc payload fcrc)) s := by
  obtain ⟨-, -, -, -, hakn, -⟩ := hwf
  exact congrArg (fun ft => runDecode (typedFrameBytes s.cfg ft length seq hcrc payload fcrc) s) hakn

theorem exec_frameMsg {s : State} (hwf : s.cfg.wf) (length seq hcrc : Half) (payload : List Byte) (fcrc : Word) :
    exec (.frameMsg length seq hcrc payload fcrc) s =
      exec (.decode (typedFrameBytes s.cfg 2 length seq hcrc payload fcrc)) s := by
  obtain ⟨-, -, -, -, -, hmsg, -⟩ := hwf
  exact congrArg (fun ft => runDecode (typedFrameBytes s.cfg ft length seq hcrc payload fcrc) s) hmsg

/-- Settles O26: a frame row runs the DECODE of its frame, whose type does not matter for its being loaded. -/
theorem typedFramesAreLoaded : Obligations.TypedFramesAreLoaded := by
  intro s length seq hcrc payload fcrc hwf hlen hfield hdr sound
  have hload : ∀ ft, sound ft →
      ∃ t, exec (.decode (typedFrameBytes s.cfg ft length seq hcrc payload fcrc)) s = .next t ∧
        FrameLoaded s ft length seq hcrc payload fcrc t :=
    fun _ hsound => exec_decode_typedFrameBytes hwf hlen hfield hsound
  rw [exec_frameCmd hwf, exec_frameAkn hwf, exec_frameMsg hwf]
  exact ⟨hload 0, hload 1, hload 2⟩

end Sys2Proof.Safety
end

section
/-! What a write set determines (10_state.md R13, R25): its `STATUS` by opcode, and that two states which a client
cannot tell apart but by `STATUS` are left alike. -/

namespace Sys2Proof.Safety

open Sys2Proof.Machine

/-! ### `STATUS` by opcode -/

theorem errStatus_mem_legalStatuses (e : OpError) : errStatus e ∈ legalStatuses := by cases e <;> decide

/-- No input of a DECODE is reported as a reserved opcode (60_exceptions.md R94). For every configuration. -/
theorem deserialize_ne_illegalOp (c : Config) (input : List Byte) : deserialize c input ≠ .error .illegalOp := by
  unfold deserialize checkFrame
  split_ifs <;> nofun

/-- ENCODE has one error (41_frame_encode.md R75). For every configuration. -/
theorem encodeWrites_status (k : Config) (ft : Byte) (seq : Half) (payload : List Byte) :
    (encodeWrites k ft seq payload).status = 0x00 ∨ (encodeWrites k ft seq payload).status = 0x01 := by
  unfold encodeWrites
  obtain ⟨-, h⟩ | ⟨-, h⟩ := serialize_cases k ft seq payload
  · rw [h]
    exact .inr rfl
  · rw [h]
    exact .inl rfl

theorem decodeWrites_status (k : Config) (input : List Byte) :
    (decodeWrites k input).status ∈ legalStatuses ∧ (decodeWrites k input).status ≠ 0x05 := by
  unfold decodeWrites
  cases h : deserialize k input with
  | error e =>
    refine ⟨errStatus_mem_legalStatuses e, fun hstatus => deserialize_ne_illegalOp k input ?_⟩
    rw [h, errStatus_inj.mp (show errStatus e = errStatus .illegalOp from hstatus)]
  | ok f => exact ⟨(by decide : statusOk ∈ legalStatuses), (by decide : statusOk ≠ 0x05)⟩

/-- The `STATUS` values of each opcode (60_exceptions.md R93, R94). -/
theorem commandWrites_status (k : Config) (c : Command) :
    ((c.op = 0x00 ∨ c.op = 0x01) ∧ (commandWrites k c).status = 0x00) ∨
    (c.op = 0x02 ∧ ((commandWrites k c).status = 0x00 ∨ (commandWrites k c).status = 0x01)) ∨
    (c.op = 0x03 ∧ (commandWrites k c).status ∈ legalStatuses ∧ (commandWrites k c).status ≠ 0x05) ∨
    (4 ≤ c.op.toNat ∧ (commandWrites k c).status = 0x05) := by
  have hreserved : c.op ≠ 0x00 → c.op ≠ 0x01 → c.op ≠ 0x02 → c.op ≠ 0x03 → 4 ≤ c.op.toNat := by bv_omega
  unfold commandWrites
  split_ifs with hcrc16 hcrc32 hencode hdecode
  · exact .inl ⟨.inl hcrc16, rfl⟩
  · exact .inl ⟨.inr hcrc32, rfl⟩
  · exact .inr (.inl ⟨hencode, encodeWrites_status k c.ft c.seq c.input⟩)
  · exact .inr (.inr (.inl ⟨hdecode, decodeWrites_status k c.input⟩))
  · exact .inr (.inr (.inr ⟨hreserved hcrc16 hcrc32 hencode hdecode, rfl⟩))

/-! ### Determinism -/

theorem FrameRegsKept.trans {s t u : State} (hst : FrameRegsKept s t) (htu : FrameRegsKept t u) :
    FrameRegsKept s u := by
  obtain ⟨h1, h2, h3, h4, h5, h6, h7⟩ := hst
  obtain ⟨g1, g2, g3, g4, g5, g6, g7⟩ := htu
  exact ⟨g1.trans h1, g2.trans h2, g3.trans h3, g4.trans h4, g5.trans h5, g6.trans h6, g7.trans h7⟩

theorem FrameRegsKept.symm {s t : State} (h : FrameRegsKept s t) : FrameRegsKept t s := by
  obtain ⟨h1, h2, h3, h4, h5, h6, h7⟩ := h
  exact ⟨h1.symm, h2.symm, h3.symm, h4.symm, h5.symm, h6.symm, h7.symm⟩

theorem BufferKept.trans {s t u : State} (hst : BufferKept s t) (htu : BufferKept t u) : BufferKept s u :=
  ⟨htu.1.trans hst.1, fun a => (htu.2 a).trans (hst.2 a)⟩

theorem BufferKept.symm {s t : State} (h : BufferKept s t) : BufferKept t s := ⟨h.1.symm, fun a => (h.2 a).symm⟩

/-- A write set writes the same values over any two states that differ in `STATUS` and the hidden registers alone. -/
theorem Writes.Applied.sameVisible {w : Writes} {s s' t u : State} (hs : OnlyStatus s s') (ht : w.Applied s t)
    (hu : w.Applied s' u) : SameVisible t u := by
  obtain ⟨⟨hcrc16, hcrc32⟩, hframe, hbuffer, hcfg, hpending, hreceived⟩ := hs
  obtain ⟨htstatus, htcrc16, htcrc32, htframe, htbuffer, htcfg, htpending, htreceived⟩ := ht
  obtain ⟨hustatus, hucrc16, hucrc32, huframe, hubuffer, hucfg, hupending, hureceived⟩ := hu
  refine ⟨hustatus.trans htstatus.symm, ⟨?_, ?_⟩, ?_, ?_, ?_, ?_, ?_⟩
  · rw [hucrc16, htcrc16, hcrc16]
  · rw [hucrc32, htcrc32, hcrc32]
  · cases hw : w.frame with
    | none =>
      rw [hw] at htframe huframe
      exact htframe.symm.trans (hframe.trans huframe)
    | some f =>
      rw [hw] at htframe huframe
      obtain ⟨h1, h2, h3, h4, h5, h6, h7⟩ := htframe
      obtain ⟨g1, g2, g3, g4, g5, g6, g7⟩ := huframe
      exact ⟨g1.trans h1.symm, g2.trans h2.symm, g3.trans h3.symm, g4.trans h4.symm, g5.trans h5.symm,
        g6.trans h6.symm, g7.trans h7.symm⟩
  · cases hw : w.output with
    | none =>
      rw [hw] at htbuffer hubuffer
      exact htbuffer.symm.trans (hbuffer.trans hubuffer)
    | some bytes =>
      rw [hw] at htbuffer hubuffer
      exact ⟨hubuffer.1.trans htbuffer.1.symm, fun a => (hubuffer.2 a).trans (htbuffer.2 a).symm⟩
  · rw [hucfg, htcfg, hcfg]
  · rw [hupending, htpending, hpending]
  · rw [hureceived, htreceived, hreceived]

/-- What a write set left is left by writing it again. -/
theorem Writes.Applied.self {w : Writes} {s t : State} (h : w.Applied s t) : w.Applied t t := by
  obtain ⟨hstatus, hcrc16, hcrc32, hframe, hbuffer, -⟩ := h
  refine ⟨hstatus, ?_, ?_, ?_, ?_, rfl, rfl, rfl⟩
  · cases hw : w.crc16Out with
    | none => rfl
    | some v => rw [hcrc16, hw]; rfl
  · cases hw : w.crc32Out with
    | none => rfl
    | some v => rw [hcrc32, hw]; rfl
  · cases hw : w.frame with
    | none => exact ⟨rfl, rfl, rfl, rfl, rfl, rfl, rfl⟩
    | some f => rwa [hw] at hframe
  · cases hw : w.output with
    | none => exact ⟨rfl, fun _ => rfl⟩
    | some bytes => rwa [hw] at hbuffer

/-- Issuing the same command from states alike but for `STATUS` and the hidden registers leaves states alike. -/
theorem issue_sameVisible {s s' : State} (c : Command) (hs : OnlyStatus s s') :
    ∃ t u, issue c s = .next t ∧ issue c s' = .next u ∧ SameVisible t u := by
  obtain ⟨t, hissue, ht⟩ := issue_applied s c
  obtain ⟨u, hissue', hu⟩ := issue_applied s' c
  have ⟨_, _, _, hcfg, _⟩ := hs
  rw [hcfg] at hu
  exact ⟨t, u, hissue, hissue', ht.sameVisible hs hu⟩

theorem OnlyStatus.refl (s : State) : OnlyStatus s s := onlyStatus_setStatus s.status s

/-! ### The statements -/

/-- Settles O31: the `STATUS` of the write set, by opcode. -/
theorem statusValuesByOpcode : Obligations.StatusValuesByOpcode := by
  intro s c
  obtain ⟨t, hissue, hstatus, -⟩ := issue_applied s c
  refine ⟨t, hissue, ?_⟩
  rw [hstatus]
  obtain ⟨hop, h⟩ | ⟨hop, h⟩ | ⟨hop, hlegal, h⟩ | ⟨hop, h⟩ := commandWrites_status s.cfg c
  · refine ⟨by rw [h]; decide, fun _ => h, fun _ => .inl h, fun _ => by rw [h]; decide, fun hreserved => ?_⟩
    obtain hop | hop := hop <;> rw [hop] at hreserved <;> exact absurd hreserved (by decide)
  · have hlegal : (commandWrites s.cfg c).status ∈ legalStatuses := by obtain h | h := h <;> rw [h] <;> decide
    rw [hop]
    exact ⟨hlegal, fun hcrc => absurd hcrc (by decide), fun _ => h, fun hdecode => absurd hdecode (by decide),
      fun hreserved => absurd hreserved (by decide)⟩
  · rw [hop]
    exact ⟨hlegal, fun hcrc => absurd hcrc (by decide), fun hencode => absurd hencode (by decide), fun _ => h,
      fun hreserved => absurd hreserved (by decide)⟩
  · have hne : ∀ b : Byte, b.toNat < 4 → c.op ≠ b := by
      rintro b hb rfl
      omega
    exact ⟨by rw [h]; decide, fun hcrc => (hcrc.elim (hne 0x00 (by decide)) (hne 0x01 (by decide))).elim,
      fun hencode => absurd hencode (hne 0x02 (by decide)), fun hdecode => absurd hdecode (hne 0x03 (by decide)),
      fun _ => h⟩

/-- Settles O34: what the command wrote it writes again. -/
theorem operationIsIdempotent : Obligations.OperationIsIdempotent := by
  intro s c
  obtain ⟨t, hissue, ht⟩ := issue_applied s c
  obtain ⟨u, hissue', hu⟩ := issue_applied t c
  have ⟨_, _, _, _, _, hcfg, _⟩ := ht
  rw [hcfg] at hu
  exact ⟨t, u, hissue, hissue', ht.self.sameVisible (OnlyStatus.refl t) hu⟩

/-- Settles O35: another `STATUS` is a state alike but for `STATUS`. -/
theorem earlierStatusHasNoInfluence : Obligations.EarlierStatusHasNoInfluence :=
  fun s c earlier => issue_sameVisible c (onlyStatus_setStatus earlier s)

/-- Settles O36: other hidden registers are a state alike, even in `STATUS`. -/
theorem hiddenRegistersHaveNoInfluence : Obligations.HiddenRegistersHaveNoInfluence :=
  fun s c _ _ _ _ => issue_sameVisible c (OnlyStatus.refl s)

end Sys2Proof.Safety
end

section
/-! The invariant of every step (10_state.md R16, R17, R19, R21, R26): each operation on the state keeps it, so every
move of the client does; and what it says of a read of `OBUF`. -/

namespace Sys2Proof.Machine

/-! ### `OBUF` by its keys -/

/-- A byte holds a value exactly when its index is listed (10_state.md R19). -/
theorem Memory.read_eq_none_iff (m : Memory) (a : Nat) : m.read a = none ↔ a ∉ m.map Prod.fst := by
  induction m with
  | nil => simp
  | cons cell rest ih =>
    obtain ⟨x, b⟩ := cell
    by_cases h : a = x <;> simp [Memory.read, h, ih]

/-- Where every index below `n` holds a value, byte `i` of `OBUF[0:n]` is the one at index `i`. -/
theorem Memory.bytes_getElem? {m : Memory} {n : Nat} (h : ∀ a < n, m.read a ≠ none) {i : Nat} (hi : i < n) :
    (m.bytes n)[i]? = m.read i := by
  have hsome : ∀ a < n, m.read a = some ((m.read a).getD 0) := fun a ha => by
    obtain ⟨b, hb⟩ := Option.ne_none_iff_exists'.mp (h a ha)
    rw [hb]
    rfl
  have hmap : m.bytes n = (List.range n).map fun a => (m.read a).getD 0 := by
    rw [Memory.bytes, ← List.filterMap_eq_map]
    exact List.filterMap_congr fun a ha => hsome a (List.mem_range.mp ha)
  rw [hmap, List.getElem?_map, List.getElem?_range hi, hsome i hi]
  rfl

/-! ### A command, by its opcode -/

/-- What a command runs, by its opcode alone (30_encoding.md R48, R50), whichever spelling the decoder answers. -/
theorem issue_by_opcode (c : Command) (s : State) :
    (c.op = 0x00 ∧ issue c s = execCrc16 c.input s) ∨ (c.op = 0x01 ∧ issue c s = execCrc32 c.input s) ∨
    (c.op = 0x02 ∧ issue c s = runEncode c.ft c.seq c.input s) ∨ (c.op = 0x03 ∧ issue c s = runDecode c.input s) ∨
    (4 ≤ c.op.toNat ∧ issue c s = raise .illegalOp s) := by
  unfold issue
  obtain ⟨hop, h⟩ | ⟨hop, h⟩ | ⟨hop, h⟩ | ⟨hop, h⟩ | ⟨hop, h⟩ := decode_cases s.cfg c <;> rw [h]
  · exact .inl ⟨hop, rfl⟩
  · exact .inr (.inl ⟨hop, rfl⟩)
  · exact .inr (.inr (.inl ⟨hop, exec_encodeForm s c.ft c.seq c.input⟩))
  · exact .inr (.inr (.inr (.inl ⟨hop, exec_decodeForm s c.input⟩)))
  · exact .inr (.inr (.inr (.inr ⟨hop, rfl⟩)))

end Sys2Proof.Machine

namespace Sys2Proof.Safety

open Sys2Proof.Machine

/-! ### Each state operation keeps the invariant -/

theorem Inv.setStatus {s : State} (h : Inv s) {v : Byte} (hv : v ∈ legalStatuses) : Inv (s.setStatus v) :=
  ⟨h.cfgWf, h.obufExact, h.olenBound, hv, h.frameLegal⟩

theorem Inv.setCrc16Out {s : State} (h : Inv s) (v : Half) : Inv (s.setCrc16Out v) :=
  ⟨h.cfgWf, h.obufExact, h.olenBound, h.statusLegal, h.frameLegal⟩

theorem Inv.setCrc32Out {s : State} (h : Inv s) (v : Word) : Inv (s.setCrc32Out v) :=
  ⟨h.cfgWf, h.obufExact, h.olenBound, h.statusLegal, h.frameLegal⟩

theorem Inv.usedCrc16 {s : State} (h : Inv s) : Inv s.usedCrc16 :=
  ⟨h.cfgWf, h.obufExact, h.olenBound, h.statusLegal, h.frameLegal⟩

theorem Inv.usedCrc32 {s : State} (h : Inv s) : Inv s.usedCrc32 :=
  ⟨h.cfgWf, h.obufExact, h.olenBound, h.statusLegal, h.frameLegal⟩

theorem Inv.give {s : State} (h : Inv s) (v : Word) : Inv (s.give v) :=
  ⟨h.cfgWf, h.obufExact, h.olenBound, h.statusLegal, h.frameLegal⟩

/-- The client's queue is no part of the invariant (log 5). -/
theorem Inv.withPending {s : State} (h : Inv s) (moves : List ClientMove) : Inv { s with pending := moves } :=
  ⟨h.cfgWf, h.obufExact, h.olenBound, h.statusLegal, h.frameLegal⟩

theorem Inv.storeOutput {s : State} (h : Inv s) {bytes : List Byte} (hlen : bytes.length ≤ s.cfg.maxFrameLen) :
    Inv (s.storeOutput bytes) := by
  have hmax := maxFrameLen_of_wf h.cfgWf
  have holen : (BitVec.ofNat 11 bytes.length).toNat = bytes.length := by
    rw [BitVec.toNat_ofNat]
    omega
  refine ⟨h.cfgWf, ?_, ?_, h.statusLegal, h.frameLegal⟩
  · rw [State.storeOutput_obuf, State.storeOutput_olen, holen, Memory.keys_writeBytes_nil, List.range_eq_range']
  · rwa [State.storeOutput_olen, holen]

theorem Inv.storeFrame {s : State} (h : Inv s) {f : Frame} (hstart : f.start = s.cfg.startMarker)
    (hversion : f.protocolVersion = s.cfg.protocolVersion) (hfield : f.length.toNat ≤ s.cfg.maxFrameLen) :
    Inv (s.storeFrame f) :=
  ⟨h.cfgWf, h.obufExact, h.olenBound, h.statusLegal, .inr ⟨hstart, hversion, hfield⟩⟩

/-- A cleared block meets the invariant whatever came before, if its constants are the stated ones (R24). -/
theorem inv_resetBlock {s : State} (hwf : s.cfg.wf) : Inv s.resetBlock :=
  ⟨hwf, rfl, Nat.zero_le _, (by decide : (0 : Byte) ∈ legalStatuses), .inl ⟨rfl, rfl, rfl, rfl, rfl, rfl, rfl⟩⟩

/-! ### Every move keeps it -/

theorem runEncode_keeps_inv {s t : State} (h : Inv s) {ft : Byte} {seq : Half} {payload : List Byte}
    (hrun : runEncode ft seq payload s = .next t) : Inv t := by
  have hused := h.usedCrc16.usedCrc32
  obtain ⟨-, heq⟩ | ⟨hfits, frame, hserialize, heq⟩ := runEncode_cases ft seq payload s <;>
    obtain rfl := Host.Outcome.next.inj (heq.symm.trans hrun)
  · exact hused.setStatus (by decide)
  · have hlen : frame.length ≤ s.cfg.maxFrameLen := (length_of_serialize hserialize).symm ▸ hfits
    exact (hused.storeOutput hlen).setStatus (by decide)

theorem runDecode_keeps_inv {s t : State} (h : Inv s) {input : List Byte} (hrun : runDecode input s = .next t) :
    Inv t := by
  have hused := h.usedCrc16.usedCrc32
  obtain ⟨e, -, heq⟩ | ⟨f, hpass, heq⟩ := runDecode_cases input s <;>
    obtain rfl := Host.Outcome.next.inj (heq.symm.trans hrun)
  · exact hused.setStatus (errStatus_mem_legalStatuses e)
  · obtain ⟨-, hmax, hcheck⟩ := (deserialize_ok_iff _ _ _).mp hpass
    obtain ⟨rfl, -, -, hstart, hversion, hfield⟩ := (checkFrame_ok_iff _ _ _ _).mp hcheck
    have hlen : (frameFields input).payload.length ≤ s.cfg.maxFrameLen := by
      rw [length_payload_of_deserialize hpass]
      omega
    exact ((hused.storeFrame hstart hversion hfield).storeOutput hlen).setStatus (by decide)

theorem issue_keeps_inv {s t : State} (h : Inv s) {c : Command} (hissue : issue c s = .next t) : Inv t := by
  obtain ⟨-, heq⟩ | ⟨-, heq⟩ | ⟨-, heq⟩ | ⟨-, heq⟩ | ⟨-, heq⟩ := issue_by_opcode c s <;> rw [heq] at hissue
  · rw [succeed_next hissue]
    exact (h.usedCrc16.setCrc16Out _).setStatus (by decide)
  · rw [succeed_next hissue]
    exact (h.usedCrc32.setCrc32Out _).setStatus (by decide)
  · exact runEncode_keeps_inv h hissue
  · exact runDecode_keeps_inv h hissue
  · rw [raise_next hissue]
    exact h.setStatus (by decide)

/-- No command changes the constants (10_state.md R21) or the client's side. -/
theorem issue_clientKept {s t : State} {c : Command} (hissue : issue c s = .next t) : ClientKept s t := by
  obtain ⟨u, hissue', -, -, -, -, -, hclient⟩ := issue_applied s c
  obtain rfl : t = u := Host.Outcome.next.inj (hissue.symm.trans hissue')
  exact hclient

/-- Settles O42: by the client's next move; each is made of operations that keep the invariant. -/
theorem stepKeepsInvariant : Obligations.StepKeepsInvariant := by
  intro s t h hstep
  obtain ⟨-, heq⟩ | ⟨rest, -, heq⟩ | ⟨c, rest, -, heq⟩ | ⟨r, rest, -, heq⟩ | ⟨i, rest, -, heq⟩ := step_cases s <;>
    rw [heq] at hstep
  case inl =>
    obtain rfl := Host.Outcome.next.inj hstep
    exact ⟨h, rfl⟩
  case inr.inl =>
    obtain rfl := Host.Outcome.next.inj hstep
    exact ⟨inv_resetBlock h.cfgWf, rfl⟩
  case inr.inr.inl =>
    obtain ⟨hcfg, -, -⟩ := issue_clientKept hstep
    exact ⟨issue_keeps_inv (h.withPending rest) hstep, hcfg⟩
  case inr.inr.inr.inl =>
    obtain rfl := Host.Outcome.next.inj hstep
    exact ⟨(h.withPending rest).give _, rfl⟩
  case inr.inr.inr.inr =>
    obtain ⟨-, b, -, hread⟩ | ⟨-, -, hread⟩ | ⟨-, hread⟩ := clientReadObuf_cases i { s with pending := rest } <;>
      rw [hread] at hstep
    · obtain rfl := Host.Outcome.next.inj hstep
      exact ⟨(h.withPending rest).give _, rfl⟩
    · cases hstep
    · cases hstep

/-- Settles O43: the state after reset is a cleared block with the stated constants. -/
theorem resetMeetsInvariant : Obligations.ResetMeetsInvariant :=
  inv_resetBlock (s := State.reset) (by decide)

/-! ### Reads of `OBUF` -/

/-- Under the invariant every byte below `OLEN` holds a value (10_state.md R19). -/
theorem Inv.read_ne_none {s : State} (h : Inv s) {i : Nat} (hi : i < s.olen.toNat) : s.obuf.read i ≠ none := by
  rw [Ne, Memory.read_eq_none_iff, h.obufExact, List.mem_range]
  exact not_not.mpr hi

/-- Settles O44: only reads of `OBUF` can stop, and the invariant rules out the fault. -/
theorem onlyUnreadableObufStops : Obligations.OnlyUnreadableObufStops := by
  intro s h
  obtain ⟨-, heq⟩ | ⟨rest, -, heq⟩ | ⟨c, rest, -, heq⟩ | ⟨r, rest, -, heq⟩ | ⟨i, rest, hpending, heq⟩ := step_cases s
  case inr.inr.inl =>
    obtain ⟨t, hissue, -⟩ := issue_applied { s with pending := rest } c
    exact .inl ⟨t, heq.trans hissue⟩
  case inr.inr.inr.inr =>
    obtain ⟨-, b, -, hread⟩ | ⟨hi, hnone, -⟩ | ⟨hi, hread⟩ := clientReadObuf_cases i { s with pending := rest }
    · exact .inl ⟨_, heq.trans hread⟩
    · exact absurd hnone (h.read_ne_none hi)
    · exact .inr ⟨i, rest, hpending, hi, heq.trans hread⟩
  all_goals exact .inl ⟨_, heq⟩

/-- Settles O41: the byte read is the one `OBUF[0:OLEN]` has at that index. -/
theorem obufReadsGiveBytesBelowOlen : Obligations.ObufReadsGiveBytesBelowOlen := by
  intro s i rest h hpending
  have hstep : step s = clientReadObuf i { s with pending := rest } := by
    rw [step, clientStep, hpending]
    rfl
  rw [hstep]
  obtain ⟨hi, b, hb, hread⟩ | ⟨hi, hnone, -⟩ | ⟨hi, hread⟩ := clientReadObuf_cases i { s with pending := rest }
  · have houtput : s.output[i]? = some b := (Memory.bytes_getElem? (fun a ha => h.read_ne_none ha) hi).trans hb
    exact ⟨fun _ => ⟨b, houtput, hread⟩, fun hge => absurd hi (Nat.not_lt_of_le hge)⟩
  · exact absurd hnone (h.read_ne_none hi)
  · exact ⟨fun hlt => absurd hlt (Nat.not_lt_of_le hi), fun _ => hread⟩

end Sys2Proof.Safety
end

section
/-! The client's moves (70_reset_and_hazards.md R117, R118) and the CRC operations (40_crc.md R64 to R67). -/

namespace Sys2Proof.Machine

/-- One step performs the client's next move. -/
theorem step_of_pending {s : State} {m : ClientMove} {rest : List ClientMove} (h : s.pending = m :: rest) :
    step s = clientMove m { s with pending := rest } := by
  rw [step, clientStep, h]

/-- A run whose first step answers a next state goes on from there. -/
theorem run_succ_of_step {s t : State} (h : core.step s = .next t) (k : Nat) : core.run (k + 1) s = core.run k t := by
  simp only [Host.Core.run, h]

theorem issue_of_decode {s : State} {c : Command} {i : Instr} (h : decode s.cfg c = .ok i) : issue c s = exec i s := by
  rw [issue, h]

/-- Two admitted configurations have the same frame constants, so they decode alike. -/
theorem decode_congr_wf {k k' : Config} (h : k.wf) (h' : k'.wf) (c : Command) : decode k c = decode k' c := by
  obtain ⟨hstart, hversion, hmax, hcmd, hakn, hmsg, -⟩ := h
  obtain ⟨hstart', hversion', hmax', hcmd', hakn', hmsg', -⟩ := h'
  simp only [decode, encodeForm, decodeForm, hasFrameHeader, hstart, hversion, hmax, hcmd, hakn, hmsg, hstart',
    hversion', hmax', hcmd', hakn', hmsg']

theorem livoxDefault_wf : Config.livoxDefault.wf := by decide

/-- One register loop after another is the loop over both parts (40_crc.md R67). -/
theorem crcRun_append {w : Nat} (p : CrcParams w) (reg : BitVec w) (a b : List Byte) :
    crcRun p reg (a ++ b) = crcRun p (crcRun p reg a) b := List.foldl_append

end Sys2Proof.Machine

namespace Sys2Proof.Safety

open Sys2Proof.Machine

/-! ### The client and the step -/

/-- Settles O37: a step issues the pending command, and issuing runs what it decodes to. -/
theorem stepRunsDecodedInstruction : Obligations.StepRunsDecodedInstruction := by
  refine ⟨fun s c rest i hpending hdecode => ?_, fun s nbits w i hwf hdecode => ?_⟩
  · rw [step_of_pending hpending]
    exact issue_of_decode hdecode
  · rw [step_withFetchWord]
    refine issue_of_decode ?_
    rw [decode_congr_wf hwf livoxDefault_wf]
    unfold decodeTableWord at hdecode
    cases h : decode Config.livoxDefault (tableCommand nbits w) with
    | ok j =>
      rw [h] at hdecode
      exact congrArg Except.ok (Option.some.inj hdecode)
    | error r =>
      rw [h] at hdecode
      cases hdecode

/-- Settles O38: by induction on the commands; each completes and leaves the rest of the queue. -/
theorem programsRunToTheirEnd : Obligations.ProgramsRunToTheirEnd := by
  intro commands
  induction commands with
  | nil => exact fun s hpending => ⟨s, rfl, hpending, rfl, rfl⟩
  | cons c commands ih =>
    intro s hpending
    obtain ⟨t, hissue, -⟩ := issue_applied { s with pending := commands.map .issue } c
    obtain ⟨hcfg, hrest, hreceived⟩ := issue_clientKept hissue
    obtain ⟨u, hrun, hempty, hcfg', hreceived'⟩ := ih t hrest
    have hstep : core.step s = .next t := (step_of_pending hpending).trans hissue
    exact ⟨u, (run_succ_of_step hstep _).trans hrun, hempty, hcfg'.trans hcfg, hreceived'.trans hreceived⟩

/-- Settles O39: every register of a cleared block is 0, by the definition of reset. -/
theorem resetClearsRegisters : Obligations.ResetClearsRegisters := by
  refine ⟨⟨rfl, rfl, rfl, rfl, rfl, rfl, rfl, rfl, rfl, rfl, rfl, fun _ => rfl⟩, fun s rest hpending => ?_⟩
  exact ⟨_, step_of_pending hpending, ⟨rfl, rfl, rfl, rfl, rfl, rfl, rfl, rfl, rfl, rfl, rfl, fun _ => rfl⟩,
    rfl, rfl, rfl⟩

/-- Settles O40: the value given is `readReg`, the register zero-extended. -/
theorem registerReadsGiveValues : Obligations.RegisterReadsGiveValues := by
  intro s r rest hpending
  refine ⟨s.readReg r, ?_, ?_⟩
  · rw [step_of_pending hpending]
    cases r <;> rfl
  · cases r
    case crc32Out | fFcrc => rfl
    all_goals exact BitVec.toNat_setWidth_of_le (by decide)

/-! ### The CRC operations -/

/-- Settles O1: CRC16 answers one next state, whose fields are read off. -/
theorem crc16WritesChecksum : Obligations.Crc16WritesChecksum :=
  ⟨fun _ _ hop => if_pos hop, fun _ _ => ⟨_, rfl, rfl, rfl, rfl, ⟨rfl, rfl, rfl, rfl, rfl, rfl, rfl⟩,
    ⟨rfl, fun _ => rfl⟩, ⟨rfl, rfl, rfl⟩, rfl⟩⟩

/-- Settles O2: CRC32 answers one next state, whose fields are read off. -/
theorem crc32WritesChecksum : Obligations.Crc32WritesChecksum := by
  refine ⟨fun k c hop => ?_, fun _ _ => ⟨_, rfl, rfl, rfl, rfl, ⟨rfl, rfl, rfl, rfl, rfl, rfl, rfl⟩,
    ⟨rfl, fun _ => rfl⟩, ⟨rfl, rfl, rfl⟩, rfl⟩⟩
  have hother : c.op ≠ 0x00 := by
    rw [hop]
    decide
  rw [decode, if_neg hother, if_pos hop]

/-- Settles O3: on the empty sequence the CRC is `crcFinish` of the initial register. -/
theorem crcOfEmptyInput : Obligations.CrcOfEmptyInput := by
  refine ⟨fun w p hrefout => ?_, fun w p hrefout => ?_, fun c h16 h32 => ?_⟩
  · simp [crc, crcFinish, hrefout]
  · simp [crc, crcFinish, hrefout]
  · rw [crc16, crc32, h16, h32]
    exact ⟨by decide +kernel, by decide +kernel⟩

/-- Settles O4: the loop is a fold; the first 9 bytes of what ENCODE sums are the header and its CRC. -/
theorem crcRunsByParts : Obligations.CrcRunsByParts := by
  refine ⟨fun _ => crcRun_append, fun c ft seq payload => ?_⟩
  have hheader : (encodePrefix c ft seq payload).take 9 =
      encodeHeader c ft seq (Config.overhead + payload.length) ++
        bytes16 (crc16 c (encodeHeader c ft seq (Config.overhead + payload.length))) := List.take_left' rfl
  rw [hheader, ← crcRun_append]
  rfl

end Sys2Proof.Safety
end

section
/-! Decoding and encoding undo each other up to the canonical spelling (30_encoding.md R47, R48, R55, R57). -/

namespace Sys2Proof.Machine

/-! ### The two ambiguous families -/

/-- The word of an ENCODE decodes to the form of its operands (R47, log 7). -/
theorem decode_commandWord_encode (k : Config) (ft : Byte) (seq : Half) (payload : List Byte) :
    decode k ⟨commandWord 0x02 ft seq, payload⟩ = .ok (encodeForm k ft seq payload) := by
  simp [decode, op_commandWord, ft_commandWord, seq_commandWord]

/-- The word of a DECODE decodes to the form of its input (R48, log 8). -/
theorem decode_commandWord_decode (k : Config) (input : List Byte) :
    decode k ⟨commandWord 0x03 0 0, input⟩ = .ok (decodeForm k input) := by
  simp [decode, op_commandWord]

theorem encodeForm_ftCmd (k : Config) (seq : Half) (payload : List Byte) :
    encodeForm k k.ftCmd seq payload = .encodeCmd seq payload := if_pos rfl

theorem encodeForm_ftAkn {k : Config} (hwf : k.wf) (seq : Half) (payload : List Byte) :
    encodeForm k k.ftAkn seq payload = .encodeAkn seq payload := by
  obtain ⟨-, -, -, hcmd, hakn, -⟩ := hwf
  rw [encodeForm, if_neg (by rw [hcmd, hakn]; decide), if_pos rfl]

theorem encodeForm_ftMsg {k : Config} (hwf : k.wf) (seq : Half) (payload : List Byte) :
    encodeForm k k.ftMsg seq payload = .encodeMsg seq payload := by
  obtain ⟨-, -, -, hcmd, hakn, hmsg, -⟩ := hwf
  rw [encodeForm, if_neg (by rw [hcmd, hmsg]; decide), if_neg (by rw [hakn, hmsg]; decide), if_pos rfl]

/-- A frame type that is none of the stated three keeps ENCODE's own spelling (R51). -/
theorem encodeForm_of_three_le {k : Config} (hwf : k.wf) {ft : Byte} (hft : 3 ≤ ft.toNat) (seq : Half)
    (payload : List Byte) : encodeForm k ft seq payload = .encode ft seq payload := by
  obtain ⟨-, -, -, hcmd, hakn, hmsg, -⟩ := hwf
  have hne : ∀ b : Byte, b.toNat < 3 → ft ≠ b := by
    rintro b hb rfl
    omega
  rw [encodeForm, if_neg (hcmd ▸ hne _ (by decide)), if_neg (hakn ▸ hne _ (by decide)),
    if_neg (hmsg ▸ hne _ (by decide))]

/-- All `decodeForm` can answer (log 8). -/
theorem decodeForm_cases (k : Config) (input : List Byte) :
    let f := frameFields input
    decodeForm k input = .decode input ∨
    (hasFrameHeader k input = true ∧
      ((f.frameType = k.ftCmd ∧
          decodeForm k input = .frameCmd f.length f.sequence f.headerCrc16 f.payload f.frameCrc32) ∨
        (f.frameType = k.ftAkn ∧
          decodeForm k input = .frameAkn f.length f.sequence f.headerCrc16 f.payload f.frameCrc32) ∨
        (f.frameType = k.ftMsg ∧
          decodeForm k input = .frameMsg f.length f.sequence f.headerCrc16 f.payload f.frameCrc32))) := by
  simp only [decodeForm]
  split_ifs with hheader hcmd hakn hmsg
  · exact .inr ⟨hheader, .inl ⟨hcmd, rfl⟩⟩
  · exact .inr ⟨hheader, .inr (.inl ⟨hakn, rfl⟩)⟩
  · exact .inr ⟨hheader, .inr (.inr ⟨hmsg, rfl⟩)⟩
  · exact .inl rfl
  · exact .inl rfl

/-- The wire bytes of a typed frame of legal size are recognised as a frame (R42, R53). -/
theorem hasFrameHeader_typedFrameBytes {k : Config} {ft : Byte} {l q h : Half} {p : List Byte} {c : Word}
    (hlen : 13 + p.length ≤ k.maxFrameLen) : hasFrameHeader k (typedFrameBytes k ft l q h p c) = true := by
  have hmin : Config.minFrameLen ≤ 13 + p.length := Nat.le_add_right 13 _
  simp [hasFrameHeader, hmin, hlen, typedFrameBytes, frameFields_frameBytes]

/-- The form of a typed frame's wire bytes, before its type is looked at (log 8). -/
theorem decodeForm_typedFrameBytes {k : Config} {ft : Byte} {l q h : Half} {p : List Byte} {c : Word}
    (hlen : 13 + p.length ≤ k.maxFrameLen) :
    decodeForm k (typedFrameBytes k ft l q h p c) =
      if ft = k.ftCmd then .frameCmd l q h p c
      else if ft = k.ftAkn then .frameAkn l q h p c
      else if ft = k.ftMsg then .frameMsg l q h p c
      else .decode (typedFrameBytes k ft l q h p c) := by
  simp only [decodeForm, hasFrameHeader_typedFrameBytes hlen, if_true]
  simp only [typedFrameBytes, frameFields_frameBytes]

theorem decodeForm_ftCmd {k : Config} {l q h : Half} {p : List Byte} {c : Word} (hlen : 13 + p.length ≤ k.maxFrameLen) :
    decodeForm k (typedFrameBytes k k.ftCmd l q h p c) = .frameCmd l q h p c :=
  (decodeForm_typedFrameBytes hlen).trans (if_pos rfl)

theorem decodeForm_ftAkn {k : Config} (hwf : k.wf) {l q h : Half} {p : List Byte} {c : Word}
    (hlen : 13 + p.length ≤ k.maxFrameLen) :
    decodeForm k (typedFrameBytes k k.ftAkn l q h p c) = .frameAkn l q h p c := by
  obtain ⟨-, -, -, hcmd, hakn, -⟩ := hwf
  rw [decodeForm_typedFrameBytes hlen, if_neg (by rw [hcmd, hakn]; decide), if_pos rfl]

theorem decodeForm_ftMsg {k : Config} (hwf : k.wf) {l q h : Half} {p : List Byte} {c : Word}
    (hlen : 13 + p.length ≤ k.maxFrameLen) :
    decodeForm k (typedFrameBytes k k.ftMsg l q h p c) = .frameMsg l q h p c := by
  obtain ⟨-, -, -, hcmd, hakn, hmsg, -⟩ := hwf
  rw [decodeForm_typedFrameBytes hlen, if_neg (by rw [hcmd, hmsg]; decide), if_neg (by rw [hakn, hmsg]; decide),
    if_pos rfl]

/-- Under the stated constants a recognised frame has 13 to 1400 bytes and starts with AA 01 (R53, R57). -/
theorem hasFrameHeader_iff_of_wf {k : Config} (hwf : k.wf) (input : List Byte) :
    hasFrameHeader k input = true ↔
      13 ≤ input.length ∧ input.length ≤ 1400 ∧ input[0]? = some 0xAA ∧ input[1]? = some 0x01 := by
  have hmax := maxFrameLen_of_wf hwf
  simp only [hasFrameHeader, Bool.and_eq_true, decide_eq_true_eq, hmax, and_assoc]
  refine and_congr_right fun hmin => ?_
  rw [frameFields_start_eq_iff hwf hmin, frameFields_protocolVersion_eq_iff hwf hmin]

/-! ### Encoding of the two families -/

/-- Whichever spelling is answered, its command word is ENCODE's with these operands (R47, R55). -/
theorem encode_encodeForm (k : Config) (ft : Byte) (seq : Half) (payload : List Byte) :
    encode k (encodeForm k ft seq payload) = ⟨commandWord 0x02 ft seq, payload⟩ := by
  unfold encodeForm
  split_ifs with hcmd hakn hmsg
  · rw [hcmd]; rfl
  · rw [hakn]; rfl
  · rw [hmsg]; rfl
  · rfl

/-- Whichever spelling is answered, it presents the input itself (R57). -/
theorem encode_decodeForm (k : Config) (input : List Byte) :
    encode k (decodeForm k input) = ⟨commandWord 0x03 0 0, input⟩ := by
  obtain h | ⟨hheader, ⟨htype, h⟩ | ⟨htype, h⟩ | ⟨htype, h⟩⟩ := decodeForm_cases k input
  · rw [h]; rfl
  all_goals rw [h, encode, ← htype, typedFrameBytes_of_hasFrameHeader hheader]

/-- A command word is its three fields (R47). -/
theorem commandWord_fields (c : Command) : commandWord c.op c.ft c.seq = c.cmd := by
  have hcmd := c.cmd.isLt
  apply BitVec.eq_of_toNat_eq
  simp only [commandWord_toNat, Command.op, Command.ft, Command.seq, BitVec.extractLsb'_toNat,
    Nat.shiftRight_eq_div_pow]
  omega

/-- What encoding a decoded instruction gives back (R47, R48). -/
theorem encode_of_decode {k : Config} {c : Command} {i : Instr} (h : decode k c = .ok i) :
    encode k i = if c.op = 0x02 then c else ⟨commandWord c.op 0 0, c.input⟩ := by
  obtain ⟨hop, hi⟩ | ⟨hop, hi⟩ | ⟨hop, hi⟩ | ⟨hop, hi⟩ | ⟨-, hi⟩ := decode_cases k c <;>
    rw [hi] at h <;> cases h <;> rw [hop]
  · rfl
  · rfl
  · rw [if_pos rfl, encode_encodeForm, ← hop, commandWord_fields]
  · rw [if_neg (by decide), encode_decodeForm]

/-! ### Rows -/

theorem encodesItsRow (i : Instr) : Laws.EncodesItsRow.Statement i := by
  cases i with
  | crc16 input => exact Laws.EncodesItsRow.crc16 input
  | crc32 input => exact Laws.EncodesItsRow.crc32 input
  | encode ft seq payload => exact Laws.EncodesItsRow.encode ft seq payload
  | decode input => exact Laws.EncodesItsRow.decode input
  | encodeCmd seq payload => exact Laws.EncodesItsRow.encodeCmd seq payload
  | encodeAkn seq payload => exact Laws.EncodesItsRow.encodeAkn seq payload
  | encodeMsg seq payload => exact Laws.EncodesItsRow.encodeMsg seq payload
  | frameCmd l q h p c => exact Laws.EncodesItsRow.frameCmd l q h p c
  | frameAkn l q h p c => exact Laws.EncodesItsRow.frameAkn l q h p c
  | frameMsg l q h p c => exact Laws.EncodesItsRow.frameMsg l q h p c

/-- Away from ENCODE a row fixes the opcode byte alone (R48). -/
theorem commandRow_mask_of_decode {k : Config} {c : Command} {i : Instr} (h : decode k c = .ok i) (hop : c.op ≠ 0x02) :
    (i.commandRow k).2 = 0x000000FF := by
  obtain ⟨-, hi⟩ | ⟨-, hi⟩ | ⟨hencode, -⟩ | ⟨-, hi⟩ | ⟨-, hi⟩ := decode_cases k c
  case inr.inr.inl => exact absurd hencode hop
  all_goals rw [hi] at h; cases h
  · rfl
  · rfl
  · obtain h | ⟨-, ⟨-, h⟩ | ⟨-, h⟩ | ⟨-, h⟩⟩ := decodeForm_cases k c.input <;> rw [h] <;> rfl

end Sys2Proof.Machine

namespace Sys2Proof.Safety

open Sys2Proof.Machine

/-- Decoding what an instruction encodes to gives its canonical spelling. -/
theorem decode_encode {k : Config} (hwf : k.wf) {i : Instr} (hi : i.wf k = true) :
    decode k (encode k i) = .ok (i.canonical k) := by
  cases i with
  | crc16 input => simp [encode, decode, op_commandWord, Instr.canonical]
  | crc32 input => simp [encode, decode, op_commandWord, Instr.canonical]
  | encode ft seq payload => exact decode_commandWord_encode k ft seq payload
  | decode input => exact decode_commandWord_decode k input
  | encodeCmd seq payload => rw [encode, decode_commandWord_encode, encodeForm_ftCmd, Instr.canonical]
  | encodeAkn seq payload => rw [encode, decode_commandWord_encode, encodeForm_ftAkn hwf, Instr.canonical]
  | encodeMsg seq payload => rw [encode, decode_commandWord_encode, encodeForm_ftMsg hwf, Instr.canonical]
  | frameCmd l q h p c =>
    rw [encode, decode_commandWord_decode, decodeForm_ftCmd (of_decide_eq_true hi), Instr.canonical]
  | frameAkn l q h p c =>
    rw [encode, decode_commandWord_decode, decodeForm_ftAkn hwf (of_decide_eq_true hi), Instr.canonical]
  | frameMsg l q h p c =>
    rw [encode, decode_commandWord_decode, decodeForm_ftMsg hwf (of_decide_eq_true hi), Instr.canonical]

/-- Settles O45: `decode_encode`, and what the canonical spelling of each constructor is. -/
theorem decodeUndoesEncoding : Obligations.DecodeUndoesEncoding := by
  intro k hwf
  have ⟨_, _, _, hcmd, hakn, hmsg, _⟩ := hwf
  refine ⟨fun i hi => decode_encode hwf hi, fun _ => rfl, fun _ => rfl,
    fun ft seq payload hft => encodeForm_of_three_le hwf hft seq payload, fun seq payload => ⟨?_, ?_, ?_⟩,
    fun _ _ => ⟨rfl, rfl, rfl⟩, fun _ _ _ _ _ => ⟨rfl, rfl, rfl⟩, fun input => ?_⟩
  · exact (congrArg (encodeForm k · seq payload) hcmd).symm.trans (encodeForm_ftCmd k seq payload)
  · exact (congrArg (encodeForm k · seq payload) hakn).symm.trans (encodeForm_ftAkn hwf seq payload)
  · exact (congrArg (encodeForm k · seq payload) hmsg).symm.trans (encodeForm_ftMsg hwf seq payload)
  · obtain h | ⟨hheader, hform⟩ := decodeForm_cases k input
    · exact .inl h
    · obtain ⟨hmin, hmax, hstart, hversion⟩ := (hasFrameHeader_iff_of_wf hwf input).mp hheader
      have htype := (frameFields_standIn input hmin).frameType
      have hbytes := typedFrameBytes_of_hasFrameHeader hheader
      simp only at hbytes
      refine .inr ⟨hmin, hmax, hstart, hversion, ?_⟩
      obtain ⟨ht, h⟩ | ⟨ht, h⟩ | ⟨ht, h⟩ := hform
      · rw [ht.trans hcmd] at htype hbytes
        exact ⟨_, _, _, _, _, .inl ⟨htype, h, hbytes.symm⟩⟩
      · rw [ht.trans hakn] at htype hbytes
        exact ⟨_, _, _, _, _, .inr (.inl ⟨htype, h, hbytes.symm⟩)⟩
      · rw [ht.trans hmsg] at htype hbytes
        exact ⟨_, _, _, _, _, .inr (.inr ⟨htype, h, hbytes.symm⟩)⟩

/-- Settles O46: `encode_of_decode`, on the word of ENCODE and on the others. -/
theorem encodingUndoesDecode : Obligations.EncodingUndoesDecode := by
  intro k c i h
  rw [encode_of_decode h]
  split_ifs with hop
  · exact ⟨rfl, rfl, fun _ => rfl, fun hne => absurd hop hne⟩
  · exact ⟨rfl, op_commandWord _ _ _ _, fun hencode => absurd hencode hop,
      fun _ => ⟨ft_commandWord _ _ _ _, seq_commandWord _ _ _ _⟩⟩

/-- Settles O47: the two families that have another spelling run their one operation. -/
theorem canonicalSpellingHasSameMeaning : Obligations.CanonicalSpellingHasSameMeaning := by
  intro i s
  cases i with
  | encode ft seq payload => exact exec_encodeForm s ft seq payload
  | decode input => exact exec_decodeForm s input
  | _ => rfl

/-- A decoded command matches the row of the instruction, since the instruction's own encoding does. -/
theorem command_matches_row {k : Config} {c : Command} {i : Instr} (h : decode k c = .ok i) :
    c.cmd &&& (i.commandRow k).2 = (i.commandRow k).1 ∧
      List.zipWith (· &&& ·) (c.input.take 9) (i.frameRow k).2 = (i.frameRow k).1 := by
  obtain ⟨hinput, hop, hcmd, -⟩ := encodingUndoesDecode k c i h
  obtain ⟨hword, hframe⟩ := encodesItsRow i k
  rw [← hinput]
  refine ⟨?_, hframe⟩
  by_cases hencode : c.op = 0x02
  · rw [← hcmd hencode]
    exact hword
  · rw [← hword, commandRow_mask_of_decode h hencode]
    exact (cmd_and_mask c).trans (hop ▸ (cmd_and_mask (encode k i)).symm)

/-- Settles O48: which opcodes decode, `command_matches_row`, and the columns under the stated constants. -/
theorem decodedCommandMatchesItsRow : Obligations.DecodedCommandMatchesItsRow := by
  refine ⟨fun k c => ?_, fun k c i h => command_matches_row h, fun k hwf => ?_⟩
  · rw [decode_ok_iff]
    bv_omega
  · obtain ⟨hstart, hversion, -, hcmd, hakn, hmsg, -⟩ := hwf
    simp only [Instr.commandRow, Instr.frameRow, frameColumns, hstart, hversion, hcmd, hakn, hmsg]
    exact ⟨fun _ _ => ⟨by decide, by decide, by decide⟩, fun _ _ _ _ _ => ⟨rfl, rfl, rfl⟩⟩

/-- Settles O50: an admitted configuration decodes as the default one does, which is evaluated. -/
theorem knownWordsDecode : Obligations.KnownWordsDecode := by
  intro k hwf
  simp only [decode_congr_wf hwf livoxDefault_wf]
  decide +kernel

end Sys2Proof.Safety
end

section
/-! Little-endian values in `OBUF` and `IN` (00_scope.md R11, 20_memory.md R28, R30). -/

namespace Sys2Proof.Machine

/-- Byte `j` of a little-endian value (R11). -/
theorem leBytes_getElem? (k v : Nat) {j : Nat} (hj : j < k) :
    (leBytes k v)[j]? = some (BitVec.ofNat 8 (v / 256 ^ j)) := by
  induction k generalizing v j with
  | zero => omega
  | succ k ih =>
    cases j with
    | zero => simp [leBytes]
    | succ j =>
      rw [leBytes, List.getElem?_cons_succ, ih (v / 256) (by omega), Nat.div_div_eq_div_mul, Nat.pow_succ']

/-- Serializing and assembling again keeps the `k` low bytes (R11). -/
theorem leNat_leBytes (k v : Nat) : leNat (leBytes k v) = v % 256 ^ k := by
  induction k generalizing v with
  | zero => simp [leBytes, leNat, Nat.mod_one]
  | succ k ih =>
    rw [leBytes, leNat, ih, BitVec.toNat_ofNat, pow_succ' 256 k]
    exact Nat.mod_mul.symm

theorem leNat_slice_one (input : List Byte) {i : Nat} (h : i + 1 ≤ input.length) :
    leNat (slice input i (i + 1)) = (input.getD i 0).toNat := by
  rw [slice_cons input (by omega) (by omega), slice_self]
  rfl

theorem memRead_of_le {input : List Byte} {i k : Nat} (h : i + k ≤ input.length) :
    memRead input i k = some (leNat (slice input i (i + k))) := if_pos h

end Sys2Proof.Machine

namespace Sys2Proof.Safety

open Sys2Proof.Machine

/-- Settles O52: a write is `writeBytes` of `leBytes`, a read is `leNat` of a slice. -/
theorem bytesAreLittleEndian : Obligations.BytesAreLittleEndian := by
  refine ⟨fun m i k v => ⟨fun j hj => ?_, fun a ha => ?_⟩, fun k v => ?_, fun input i hi => ?_⟩
  · rw [Memory.memWrite, Memory.read_writeBytes, length_leBytes, if_pos (by omega), Nat.add_sub_cancel_left,
      leBytes_getElem? k v hj]
  · rw [Memory.memWrite, Memory.read_writeBytes, length_leBytes, if_neg (by omega)]
  · have hslice : slice (leBytes k v) 0 (0 + k) = leBytes k v := by simp [slice]
    rw [memRead_of_le (by simp), hslice, leNat_leBytes]
  · refine ⟨_, _, memRead_of_le (by omega), memRead_of_le (by omega), ?_⟩
    rw [memRead_of_le hi, slice_two input hi, leNat_two, leNat_slice_one input (by omega),
      leNat_slice_one input (by omega)]

end Sys2Proof.Safety
end

section
/-! The CRC algorithm (40_crc.md R61, R63, R68): its two forms mirror each other, and a polynomial with a constant term
makes every step injective, so that a single flipped bit is never lost. -/

namespace Sys2Proof.Machine

/-! ### The LSB-first form -/

theorem reflect_xor {w : Nat} (a b : BitVec w) : reflect (a ^^^ b) = reflect a ^^^ reflect b :=
  BitVec.eq_of_getLsbD_eq fun i _ => by
    rw [BitVec.getLsbD_xor, reflect_getLsbD, reflect_getLsbD, reflect_getLsbD, BitVec.getMsbD_xor]

theorem reflect_shiftLeft_one {w : Nat} (v : BitVec w) : reflect (v <<< 1) = reflect v >>> 1 := by
  refine BitVec.eq_of_getLsbD_eq fun i hi => ?_
  rw [BitVec.getLsbD_ushiftRight, reflect_getLsbD, reflect_getLsbD, BitVec.getMsbD_shiftLeft, Nat.add_comm]

/-- The bit that leaves on the left of a register leaves its reflection on the right. -/
theorem reflect_getLsbD_zero {w : Nat} (v : BitVec w) : (reflect v).getLsbD 0 = v.msb := by
  rw [reflect_getLsbD, BitVec.msb]

/-- A reflected byte that enters at the top enters the reflected register unreflected, at the bottom (R63). -/
theorem reflect_byte_at_top {w : Nat} (hw : 8 ≤ w) (b : Byte) :
    reflect ((reflect b).setWidth w <<< (w - 8)) = b.setWidth w := by
  refine BitVec.eq_of_getLsbD_eq fun i hi => ?_
  rw [reflect_getLsbD, BitVec.getMsbD_eq_getLsbD, BitVec.getLsbD_shiftLeft, BitVec.getLsbD_setWidth, reflect_getLsbD,
    BitVec.getMsbD_eq_getLsbD, BitVec.getLsbD_setWidth]
  by_cases hlow : i < 8
  · have hindex : 8 - 1 - (w - 1 - i - (w - 8)) = i := by omega
    have hmin : ¬ w - 1 - i < w - 8 := by omega
    have hmax : w - 1 - i < w := by omega
    have hbyte : w - 1 - i - (w - 8) < 8 := by omega
    simp [hindex, hmin, hmax, hbyte, hi, Nat.lt_of_lt_of_le hbyte hw]
  · have hmin : w - 1 - i < w - 8 := by omega
    simp [hmin, BitVec.getLsbD_of_ge b i (Nat.le_of_not_lt hlow)]

/-- One round of either form is the other's, seen through the reflection. -/
theorem semiconj_reflect_crcBit {w : Nat} (p : CrcParams w) :
    Function.Semiconj reflect (crcBit p) (crcBitLsb (reflect p.poly)) := by
  intro r
  simp only [crcBit, crcBitLsb, reflect_getLsbD_zero]
  split_ifs
  · rw [reflect_xor, reflect_shiftLeft_one]
  · rw [reflect_shiftLeft_one]

theorem reflect_crcByte {w : Nat} {p : CrcParams w} (hw : 8 ≤ w) (hrefin : p.refin = true) (r : BitVec w) (b : Byte) :
    reflect (crcByte p r b) = crcByteLsb p (reflect r) b := by
  rw [crcByte, if_pos hrefin, ((semiconj_reflect_crcBit p).iterate_right 8).eq, reflect_xor, reflect_byte_at_top hw,
    crcByteLsb]

theorem reflect_crcRun {w : Nat} {p : CrcParams w} (hw : 8 ≤ w) (hrefin : p.refin = true) (r : BitVec w)
    (data : List Byte) : crcRunLsb p (reflect r) data = reflect (crcRun p r data) := by
  induction data generalizing r with
  | nil => rfl
  | cons b data ih => rw [crcRun_cons, ← ih, reflect_crcByte hw hrefin, crcRunLsb, List.foldl_cons, crcRunLsb]

/-! ### Injectivity -/

/-- Bit `i` after one round: the bit below it, and the polynomial's if a 1 left the register (R61). -/
theorem crcBit_getLsbD {w : Nat} (p : CrcParams w) (r : BitVec w) {i : Nat} (hi : i < w) :
    (crcBit p r).getLsbD i = ((decide (0 < i) && r.getLsbD (i - 1)) ^^ (r.msb && p.poly.getLsbD i)) := by
  have hshift : (r <<< 1).getLsbD i = (decide (0 < i) && r.getLsbD (i - 1)) := by
    rw [BitVec.getLsbD_shiftLeft]
    rcases i with _ | i <;> simp [hi]
  cases h : r.msb <;> simp [crcBit, h, ← hshift]

/-- With a constant term in the polynomial one round loses nothing: bit 0 tells which bit left. -/
theorem crcBit_injective {w : Nat} {p : CrcParams w} (hpoly : p.poly.getLsbD 0 = true) :
    Function.Injective (crcBit p) := by
  intro a b h
  have hbit : ∀ i < w, (crcBit p a).getLsbD i = (crcBit p b).getLsbD i := fun i _ => by rw [h]
  have hmsb : 0 < w → a.msb = b.msb := fun hw => by
    have h0 := hbit 0 hw
    simpa [crcBit_getLsbD p _ hw, hpoly] using h0
  refine BitVec.eq_of_getLsbD_eq fun i hi => ?_
  have hmsb := hmsb (by omega)
  by_cases hlast : i + 1 < w
  · have hnext := hbit (i + 1) hlast
    simpa [crcBit_getLsbD p _ hlast, hmsb] using hnext
  · rw [BitVec.msb_eq_getLsbD_last, BitVec.msb_eq_getLsbD_last, show w - 1 = i by omega] at hmsb
    exact hmsb

theorem crcByte_injective_reg {w : Nat} {p : CrcParams w} (hpoly : p.poly.getLsbD 0 = true) (b : Byte) :
    Function.Injective (crcByte p · b) :=
  fun _ _ h => (BitVec.xor_left_inj _).mp ((crcBit_injective hpoly).iterate 8 h)

theorem reflect_injective {w : Nat} : Function.Injective (reflect (w := w)) := fun a b h => by
  rw [← reflect_reflect a, h, reflect_reflect]

/-- A byte that enters the top 8 bits loses none of its bits. -/
theorem byte_at_top_injective {w : Nat} (hw : 8 ≤ w) :
    Function.Injective fun b : Byte => b.setWidth w <<< (w - 8) := by
  intro a b h
  refine BitVec.eq_of_getLsbD_eq fun i hi => ?_
  have hbit := congrArg (BitVec.getLsbD · (i + (w - 8))) h
  have hlt : i + (w - 8) < w := by omega
  simpa [BitVec.getLsbD_shiftLeft, hlt, show i < w by omega] using hbit

theorem crcByte_injective_byte {w : Nat} {p : CrcParams w} (hw : 8 ≤ w) (hpoly : p.poly.getLsbD 0 = true)
    (r : BitVec w) : Function.Injective (crcByte p r) := by
  intro a b h
  have hbyte := byte_at_top_injective hw ((BitVec.xor_right_inj _).mp ((crcBit_injective hpoly).iterate 8 h))
  split_ifs at hbyte
  · exact reflect_injective hbyte
  · exact hbyte

theorem crcRun_injective {w : Nat} {p : CrcParams w} (hpoly : p.poly.getLsbD 0 = true) (data : List Byte) :
    Function.Injective (crcRun p · data) := by
  induction data with
  | nil => exact fun _ _ h => h
  | cons b data ih => exact fun _ _ h => crcByte_injective_reg hpoly b (ih h)

theorem crcFinish_injective {w : Nat} (p : CrcParams w) : Function.Injective (crcFinish p) := by
  intro a b h
  have hreg := (BitVec.xor_left_inj _).mp h
  split_ifs at hreg
  · exact reflect_injective hreg
  · exact hreg

end Sys2Proof.Machine

namespace Sys2Proof.Safety

open Sys2Proof.Machine

/-! ### One flipped bit -/

theorem flipBit_mask_ne_zero (k : Nat) : (1 : Byte) <<< (k % 8) ≠ 0 := by
  have hlt : k % 8 < 8 := Nat.mod_lt _ (by decide)
  interval_cases k % 8 <;> decide

/-- The flipped byte, between the bytes before it and those after it, which are kept. -/
theorem flipBit_eq {data : List Byte} {k : Nat} (hk : k < 8 * data.length) :
    ∃ before b b' after, data = before ++ b :: after ∧ flipBit data k = before ++ b' :: after ∧ b' ≠ b := by
  have hbyte : k / 8 < data.length := by omega
  refine ⟨data.take (k / 8), data[k / 8], _, data.drop (k / 8 + 1), ?_, List.modify_eq_take_cons_drop hbyte, ?_⟩
  · rw [List.cons_getElem_drop_succ, List.take_append_drop]
  · intro h
    exact flipBit_mask_ne_zero k (by simpa using h)

/-- A polynomial with a constant term detects any one changed byte (40_crc.md R68). -/
theorem crc_ne_of_byte_ne {w : Nat} {p : CrcParams w} (hw : 8 ≤ w) (hpoly : p.poly.getLsbD 0 = true)
    (before after : List Byte) {b b' : Byte} (hb : b' ≠ b) :
    crc p (before ++ b' :: after) ≠ crc p (before ++ b :: after) := by
  intro h
  have hrun := crcFinish_injective p h
  simp only [crcRun_append, crcRun_cons] at hrun
  exact hb (crcByte_injective_byte hw hpoly _ (crcRun_injective hpoly after hrun))

/-- Settles O5: both parts from `reflect_crcRun`. -/
theorem lsbFirstFormAgrees : Obligations.LsbFirstFormAgrees := by
  intro w p hw hrefin hrefout
  refine ⟨reflect_crcRun hw hrefin, fun data => ?_⟩
  rw [crcLsb, reflect_crcRun hw hrefin, crc, crcFinish, if_pos hrefout]

/-- Settles O6: one byte differs, and every step of the algorithm is injective. -/
theorem crcDetectsSingleBit : Obligations.CrcDetectsSingleBit := by
  intro w p hw hpoly data k hk
  obtain ⟨before, b, b', after, hdata, hflip, hb⟩ := flipBit_eq hk
  rw [hflip, hdata]
  exact crc_ne_of_byte_ne hw hpoly before after hb

end Sys2Proof.Safety
end

section
/-! One flipped bit of an accepted frame (42_frame_decode.md R91): it is in one of the two CRC fields or in what one of
them covers, and in each case that CRC no longer matches. -/

namespace Sys2Proof.Safety

open Sys2Proof.Machine

@[simp] theorem length_flipBit (data : List Byte) (k : Nat) : (flipBit data k).length = data.length :=
  List.length_modify _ _ _

/-! ### Slices of a flipped sequence -/

theorem slice_flipBit_from_zero (data : List Byte) (k b : Nat) :
    slice (flipBit data k) 0 b = flipBit (slice data 0 b) k := by
  simp [slice, flipBit, List.take_modify]

/-- A slice that the flipped byte is not in is kept. -/
theorem slice_flipBit_of_outside {data : List Byte} {k a b : Nat} (h : k / 8 < a ∨ b ≤ k / 8) :
    slice (flipBit data k) a b = slice data a b := by
  refine List.ext_getElem? fun j => ?_
  by_cases hj : j < b - a
  · have hne : k / 8 ≠ a + j := by omega
    rw [slice_getElem? _ _ _ _ hj, slice_getElem? _ _ _ _ hj, flipBit, List.getElem?_modify_ne _ _ hne]
  · have hnone : ∀ d : List Byte, (slice d a b)[j]? = none := fun d =>
      List.getElem?_eq_none (by rw [length_slice]; omega)
    rw [hnone, hnone]

theorem flipBit_getElem?_ne {data : List Byte} {k : Nat} (hk : k < 8 * data.length) :
    (flipBit data k)[k / 8]? ≠ data[k / 8]? := by
  have hbyte : k / 8 < data.length := by omega
  intro h
  rw [flipBit, List.getElem?_modify_eq, List.getElem?_eq_getElem hbyte] at h
  exact flipBit_mask_ne_zero k (by simpa using h)

/-- A slice that the flipped byte is in changes. -/
theorem slice_flipBit_ne {data : List Byte} {k a b : Nat} (ha : a ≤ k / 8) (hb : k / 8 < b)
    (hk : k < 8 * data.length) : slice (flipBit data k) a b ≠ slice data a b := by
  intro h
  have hbyte := congrArg (·[k / 8 - a]?) h
  simp only [slice_getElem? _ a b (k / 8 - a) (by omega), show a + (k / 8 - a) = k / 8 by omega] at hbyte
  exact flipBit_getElem?_ne hk hbyte

theorem le16_slice_flipBit_ne {data : List Byte} {k a : Nat} (ha : a ≤ k / 8) (hb : k / 8 < a + 2)
    (hfield : a + 2 ≤ data.length) : le16 (slice (flipBit data k) a (a + 2)) ≠ le16 (slice data a (a + 2)) := by
  intro h
  refine slice_flipBit_ne (data := data) ha hb (by omega) ?_
  rw [slice_eq_bytes16_le16 _ (by simpa using hfield), h, ← slice_eq_bytes16_le16 _ hfield]

theorem le32_slice_flipBit_ne {data : List Byte} {k : Nat} (hmin : 4 ≤ data.length) (ha : data.length - 4 ≤ k / 8)
    (hk : k < 8 * data.length) :
    le32 (slice (flipBit data k) (data.length - 4) data.length) ≠ le32 (slice data (data.length - 4) data.length) := by
  intro h
  have hbyte : k / 8 < data.length := by omega
  refine slice_flipBit_ne ha hbyte hk ?_
  have hflipped := slice_last_eq_bytes32_le32 (flipBit data k) (by simpa using hmin)
  rw [length_flipBit] at hflipped
  rw [hflipped, h, ← slice_last_eq_bytes32_le32 data hmin]

/-! ### The CRC that no longer matches -/

/-- In bytes 0 to 8 the flipped bit breaks the header CRC or its field. -/
theorem headerCrc_ne_of_flipBit {c : Config} (hpoly : c.crc16p.poly.getLsbD 0 = true) {f : List Byte}
    (haccepts : Accepts c f) {k : Nat} (hk : k < 72) :
    crc16 c (slice (flipBit f k) 0 7) ≠ le16 (slice (flipBit f k) 7 9) := by
  obtain ⟨hmin, -, hheader, -⟩ := haccepts
  by_cases hcovered : k / 8 < 7
  · have hlen : (slice f 0 7).length = 7 := by
      rw [length_slice]
      omega
    rw [slice_flipBit_from_zero, slice_flipBit_of_outside (.inl hcovered), ← hheader]
    exact crcDetectsSingleBit 16 c.crc16p (by decide) hpoly _ k (by omega)
  · rw [slice_flipBit_of_outside (.inr (by omega)), hheader]
    exact (le16_slice_flipBit_ne (by omega) (by omega) (by omega)).symm

/-- From byte 9 on the flipped bit breaks the frame CRC or its field. -/
theorem frameCrc_ne_of_flipBit {c : Config} (hpoly : c.crc32p.poly.getLsbD 0 = true) {f : List Byte}
    (haccepts : Accepts c f) {k : Nat} (hk : k < 8 * f.length) :
    crc32 c (slice (flipBit f k) 0 (f.length - 4)) ≠ le32 (slice (flipBit f k) (f.length - 4) f.length) := by
  obtain ⟨hmin, -, -, hframe, -⟩ := haccepts
  by_cases hcovered : k / 8 < f.length - 4
  · have hlen : (slice f 0 (f.length - 4)).length = f.length - 4 := by
      rw [length_slice]
      omega
    rw [slice_flipBit_from_zero, slice_flipBit_of_outside (.inl hcovered), ← hframe]
    exact crcDetectsSingleBit 32 c.crc32p (by decide) hpoly _ k (by omega)
  · rw [slice_flipBit_of_outside (.inr (by omega)), hframe]
    exact (le32_slice_flipBit_ne (by omega) (by omega) hk).symm

/-- Which check an accepted frame fails with one bit flipped (R91). -/
theorem failsWith_flipBit {c : Config} (hpoly16 : c.crc16p.poly.getLsbD 0 = true)
    (hpoly32 : c.crc32p.poly.getLsbD 0 = true) {f : List Byte} (haccepts : Accepts c f) {k : Nat}
    (hk : k < 8 * f.length) :
    FailsWith c (flipBit f k) (if k < 72 then .crcMismatchHeader else .crcMismatchFrame) := by
  have ⟨hmin, hmax, hheader, _⟩ := haccepts
  have hlen := length_flipBit f k
  split_ifs with hbit
  · exact ⟨hlen.symm ▸ hmin, hlen.symm ▸ hmax, headerCrc_ne_of_flipBit hpoly16 haccepts hbit⟩
  · refine ⟨hlen.symm ▸ hmin, hlen.symm ▸ hmax, ?_, ?_⟩
    · rw [slice_flipBit_of_outside (.inr (by omega)), slice_flipBit_of_outside (.inr (by omega)), hheader]
    · rw [hlen]
      exact frameCrc_ne_of_flipBit hpoly32 haccepts hk

/-- Settles O28: what ENCODE built is accepted, so with one bit flipped it fails as `failsWith_flipBit` says. -/
theorem flippedBitIsCrcMismatch : Obligations.FlippedBitIsCrcMismatch := by
  intro s v ft seq payload k hwf hcfg hpoly16 hpoly32 hpayload hk
  have hlen : 13 + payload.length ≤ 1400 := by omega
  have hfails := failsWith_flipBit hpoly16 hpoly32 (accepts_encodedFrame hwf ft seq hlen)
    (by rwa [length_frameBytes_encodedFrame] : k < 8 * (frameBytes (encodedFrame s.cfg ft seq payload)).length)
  rw [← output_encodedState s ft seq hlen, ← hcfg] at hfails
  obtain ⟨u, hexec, hstatus, hreport⟩ := exec_decode_reports (hcfg ▸ hwf) _ _
  obtain ⟨-, -, honly⟩ := hreport hfails
  refine ⟨_, u, exec_encode_encodedState hwf ft seq hlen, hexec, ?_, honly⟩
  rw [hstatus.mpr hfails]
  split_ifs <;> rfl

end Sys2Proof.Safety
end

section
/-! The text of an operation (30_encoding.md R54, R55): what the tokens of a printed line are, that the digits printed
read as the value, and so that a line read gives the instruction printed. -/

namespace Sys2Proof.Machine

/-! ### Tokens -/

/-- A character that neither separates words nor stands for itself. -/
abbrev PlainChar (c : Char) : Prop := c ≠ ' ' ∧ c ≠ '[' ∧ c ≠ ']' ∧ c ≠ ','

@[simp] theorem tokens_space (acc rest : List Char) : tokens acc (' ' :: rest) = flushWord acc (tokens [] rest) := by
  simp [tokens]

@[simp] theorem tokens_lbrack (acc rest : List Char) :
    tokens acc ('[' :: rest) = flushWord acc (.lbrack :: tokens [] rest) := by
  simp [tokens]

@[simp] theorem tokens_rbrack (acc rest : List Char) :
    tokens acc (']' :: rest) = flushWord acc (.rbrack :: tokens [] rest) := by
  simp [tokens]

@[simp] theorem tokens_comma (acc rest : List Char) :
    tokens acc (',' :: rest) = flushWord acc (.comma :: tokens [] rest) := by
  simp [tokens]

@[simp] theorem flushWord_nil (rest : List Token) : flushWord [] rest = rest := rfl

theorem flushWord_of_ne_nil {acc : List Char} (h : acc ≠ []) (rest : List Token) :
    flushWord acc rest = .word acc :: rest := if_neg h

/-- Plain characters collect into the word being read. -/
theorem tokens_append_of_plain {chars : List Char} (h : ∀ c ∈ chars, PlainChar c) (acc rest : List Char) :
    tokens acc (chars ++ rest) = tokens (acc ++ chars) rest := by
  induction chars generalizing acc with
  | nil => simp
  | cons c chars ih =>
    obtain ⟨hspace, hlbrack, hrbrack, hcomma⟩ := h c List.mem_cons_self
    rw [List.cons_append, tokens, if_neg hspace, if_neg hlbrack, if_neg hrbrack, if_neg hcomma,
      ih fun d hd => h d (List.mem_cons_of_mem c hd), List.append_assoc, List.singleton_append]

/-- The first word of a line, up to the space after it. -/
theorem tokens_word_space {chars : List Char} (h : ∀ c ∈ chars, PlainChar c) (hne : chars ≠ []) (rest : List Char) :
    tokens [] (chars ++ ' ' :: rest) = .word chars :: tokens [] rest := by
  rw [tokens_append_of_plain h, tokens_space, List.nil_append, flushWord_of_ne_nil hne]

/-! ### Digits -/

theorem plainChar_hexDigit : ∀ n < 16, PlainChar (hexDigit n) := by decide

theorem digitValue_hexDigit : ∀ n < 16, digitValue 16 (hexDigit n) = some n := by decide

theorem plainChar_of_mem_hexDigits {k n : Nat} {c : Char} (h : c ∈ hexDigits k n) : PlainChar c := by
  induction k generalizing n with
  | zero => cases h
  | succ k ih =>
    rw [hexDigits, List.mem_append, List.mem_singleton] at h
    obtain h | rfl := h
    · exact ih h
    · exact plainChar_hexDigit _ (Nat.mod_lt _ (by decide))

theorem hexDigits_succ_ne_nil (k n : Nat) : hexDigits (k + 1) n ≠ [] := by simp [hexDigits]

theorem digitsValue_append {base acc v : Nat} {front : List Char} (h : digitsValue base acc front = some v)
    (back : List Char) : digitsValue base acc (front ++ back) = digitsValue base v back := by
  induction front generalizing acc with
  | nil =>
    obtain rfl := Option.some.inj h
    rfl
  | cons c front ih =>
    rw [List.cons_append, digitsValue]
    rw [digitsValue] at h
    cases hdigit : digitValue base c with
    | none => simp [hdigit] at h
    | some d =>
      rw [hdigit] at h
      exact ih h

/-- The hexadecimal digits of a number read as its value. -/
theorem digitsValue_hexDigits (k n : Nat) : digitsValue 16 0 (hexDigits k n) = some (n % 16 ^ k) := by
  induction k generalizing n with
  | zero => simp [hexDigits, digitsValue, Nat.mod_one]
  | succ k ih =>
    rw [hexDigits, digitsValue_append (ih _), digitsValue, digitValue_hexDigit _ (Nat.mod_lt _ (by decide)),
      pow_succ' 16 k, Nat.mod_mul]
    simp [digitsValue]
    omega

theorem readByte_hexDigits (b : Byte) : readByte (hexDigits 2 b.toNat) = some b := by
  have hdigits : hexDigits 2 b.toNat = [hexDigit (b.toNat / 16 % 16), hexDigit (b.toNat % 16)] := rfl
  have hvalue := digitsValue_hexDigits 2 b.toNat
  rw [Nat.mod_eq_of_lt (show b.toNat < 16 ^ 2 from b.isLt), hdigits] at hvalue
  rw [hdigits, readByte, hvalue]
  simp

theorem readNumber_hex {digits : List Char} (hne : digits ≠ []) :
    readNumber ('0' :: 'x' :: digits) = digitsValue 16 0 digits := by
  cases digits with
  | nil => exact absurd rfl hne
  | cons c cs => rfl

/-- An operand's name before it is read past. -/
theorem readOperand_name {w : Nat} (name chars : List Char) :
    readOperand w name (name ++ chars) = readOperand w [] chars := by
  induction name with
  | nil => rfl
  | cons c name ih => exact (if_pos rfl).trans ih

/-- A `4 k`-bit operand printed with `k` digits reads as itself (R54). -/
theorem readOperand_hexDigits (k : Nat) (v : BitVec (4 * (k + 1))) (name : List Char) :
    readOperand (4 * (k + 1)) name (name ++ ('0' :: 'x' :: hexDigits (k + 1) v.toNat)) = some v := by
  have hlt : v.toNat < 16 ^ (k + 1) := by
    rw [show 16 = 2 ^ 4 by rfl, ← pow_mul]
    exact v.isLt
  rw [readOperand_name, readOperand, readNumber_hex (hexDigits_succ_ne_nil _ _), digitsValue_hexDigits,
    Nat.mod_eq_of_lt hlt]
  simp [v.isLt]

/-! ### Printed operands -/

/-- The tokens of the bytes of a bracket, with the closing bracket that ends a line. -/
def inputTokens (bytes : List Byte) : List Token := bytes.map (fun b => .word (hexDigits 2 b.toNat)) ++ [.rbrack]

/-- The word of a printed `seq=` operand (R54). -/
def seqWord (seq : Half) : List Char := ['s', 'e', 'q', '='] ++ ('0' :: 'x' :: hexDigits 4 seq.toNat)

/-- The word of a printed `ft=` operand (R54). -/
def ftWord (ft : Byte) : List Char := ['f', 't', '='] ++ ('0' :: 'x' :: hexDigits 2 ft.toNat)

theorem tokens_printBytes (bytes : List Byte) : tokens [] (printBytes bytes ++ [']']) = inputTokens bytes := by
  induction bytes with
  | nil => rfl
  | cons b bytes ih =>
    have hplain : ∀ c ∈ hexDigits 2 b.toNat, PlainChar c := fun c => plainChar_of_mem_hexDigits
    cases bytes with
    | nil =>
      rw [printBytes, tokens_append_of_plain hplain, tokens_rbrack, List.nil_append,
        flushWord_of_ne_nil (hexDigits_succ_ne_nil _ _)]
      rfl
    | cons b' bytes =>
      rw [printBytes, List.append_assoc, List.cons_append, tokens_word_space hplain (hexDigits_succ_ne_nil _ _), ih]
      · rfl
      · nofun

theorem tokens_printInput (bytes : List Byte) : tokens [] (printInput bytes) = .lbrack :: inputTokens bytes := by
  rw [printInput, List.cons_append, tokens_lbrack, flushWord_nil, tokens_printBytes]

theorem readBytes_inputTokens (bytes : List Byte) : readBytes (inputTokens bytes) = some bytes := by
  induction bytes with
  | nil => rfl
  | cons b bytes ih =>
    rw [inputTokens, List.map_cons, List.cons_append, readBytes, readByte_hexDigits, ← inputTokens, ih]

/-- A name and a hexadecimal number after it are one word. -/
theorem plainChar_of_mem_operand {name : List Char} (hname : ∀ c ∈ name, PlainChar c) {k n : Nat} :
    ∀ c ∈ name ++ ('0' :: 'x' :: hexDigits k n), PlainChar c := by
  intro c hc
  simp only [List.mem_append, List.mem_cons] at hc
  obtain hc | rfl | rfl | hc := hc
  · exact hname c hc
  · decide
  · decide
  · exact plainChar_of_mem_hexDigits hc

theorem plainChar_of_mem_seqWord (seq : Half) : ∀ c ∈ seqWord seq, PlainChar c :=
  plainChar_of_mem_operand (by simp [PlainChar])

theorem plainChar_of_mem_ftWord (ft : Byte) : ∀ c ∈ ftWord ft, PlainChar c :=
  plainChar_of_mem_operand (by simp [PlainChar])

/-- An operand word with the comma and the space after it (R54). -/
theorem tokens_word_comma {chars : List Char} (h : ∀ c ∈ chars, PlainChar c) (hne : chars ≠ []) (rest : List Char) :
    tokens [] (chars ++ ',' :: ' ' :: rest) = .word chars :: .comma :: tokens [] rest := by
  rw [tokens_append_of_plain h, tokens_comma, List.nil_append, flushWord_of_ne_nil hne, tokens_space, flushWord_nil]

theorem tokens_printSeq (seq : Half) (rest : List Char) :
    tokens [] (printSeq seq ++ rest) = .word (seqWord seq) :: .comma :: tokens [] rest := by
  have hprint : printSeq seq ++ rest = seqWord seq ++ ',' :: ' ' :: rest := by simp [printSeq, seqWord]
  rw [hprint, tokens_word_comma (plainChar_of_mem_seqWord seq) (by simp [seqWord])]

theorem readOperand_seqWord (seq : Half) : readOperand 16 ['s', 'e', 'q', '='] (seqWord seq) = some seq :=
  readOperand_hexDigits 3 seq _

theorem readOperand_ftWord (ft : Byte) : readOperand 8 ['f', 't', '='] (ftWord ft) = some ft :=
  readOperand_hexDigits 1 ft _

/-! ### Printed lines -/

/-- A line of a mnemonic and a byte sequence (R54). -/
theorem tokens_inputLine {mnemonic : List Char} (h : ∀ c ∈ mnemonic, PlainChar c) (hne : mnemonic ≠ [])
    (bytes : List Byte) :
    tokens [] (mnemonic ++ ' ' :: printInput bytes) = .word mnemonic :: .lbrack :: inputTokens bytes := by
  rw [tokens_word_space h hne, tokens_printInput]

/-- A line of a mnemonic, a sequence number and a byte sequence (R55). -/
theorem tokens_seqLine {mnemonic : List Char} (h : ∀ c ∈ mnemonic, PlainChar c) (hne : mnemonic ≠ [])
    (seq : Half) (bytes : List Byte) :
    tokens [] (mnemonic ++ ' ' :: (printSeq seq ++ printInput bytes)) =
      .word mnemonic :: .word (seqWord seq) :: .comma :: .lbrack :: inputTokens bytes := by
  rw [tokens_word_space h hne, tokens_printSeq, tokens_printInput]

/-- A line of a mnemonic, a frame type, a sequence number and a byte sequence (R54). -/
theorem tokens_encodeLine {mnemonic : List Char} (h : ∀ c ∈ mnemonic, PlainChar c) (hne : mnemonic ≠ [])
    (ft : Byte) (seq : Half) (bytes : List Byte) :
    tokens [] (mnemonic ++ ' ' :: (ftWord ft ++ ',' :: ' ' :: (printSeq seq ++ printInput bytes))) =
      .word mnemonic :: .word (ftWord ft) :: .comma :: .word (seqWord seq) :: .comma :: .lbrack ::
        inputTokens bytes := by
  rw [tokens_word_space h hne, tokens_word_comma (plainChar_of_mem_ftWord ft) (by simp [ftWord]), tokens_printSeq,
    tokens_printInput]

/-- A line is read through its tokens. -/
theorem readLine_of_tokens {k : Config} {line : List Char} {ts : List Token} {i : Instr} (hline : tokens [] line = ts)
    (hread : readTokens k ts = some i) : readLine k line = some i := by
  rw [readLine, hline, hread]

theorem readLine_crc16 (k : Config) (input : List Byte) :
    readLine k (['C', 'R', 'C', '1', '6', ' '] ++ printInput input) = some (.crc16 input) :=
  readLine_of_tokens
    (tokens_inputLine (mnemonic := ['C', 'R', 'C', '1', '6']) (by simp [PlainChar]) (by simp) input)
    (by simp [readTokens, readBytes_inputTokens])

theorem readLine_crc32 (k : Config) (input : List Byte) :
    readLine k (['C', 'R', 'C', '3', '2', ' '] ++ printInput input) = some (.crc32 input) :=
  readLine_of_tokens
    (tokens_inputLine (mnemonic := ['C', 'R', 'C', '3', '2']) (by simp [PlainChar]) (by simp) input)
    (by simp [readTokens, readBytes_inputTokens])

theorem readLine_decode (k : Config) (input : List Byte) :
    readLine k (['D', 'E', 'C', 'O', 'D', 'E', ' '] ++ printInput input) = some (decodeForm k input) :=
  readLine_of_tokens
    (tokens_inputLine (mnemonic := ['D', 'E', 'C', 'O', 'D', 'E']) (by simp [PlainChar]) (by simp) input)
    (by simp [readTokens, readBytes_inputTokens])

theorem readLine_encodeCmd (k : Config) (seq : Half) (payload : List Byte) :
    readLine k (printLine k (.encodeCmd seq payload)) = some (.encodeCmd seq payload) :=
  readLine_of_tokens
    (tokens_seqLine (mnemonic := ['E', 'N', 'C', 'O', 'D', 'E', '.', 'C', 'M', 'D']) (by simp [PlainChar]) (by simp)
      seq payload)
    (by simp [readTokens, readBytes_inputTokens, readOperand_seqWord])

theorem readLine_encodeAkn (k : Config) (seq : Half) (payload : List Byte) :
    readLine k (printLine k (.encodeAkn seq payload)) = some (.encodeAkn seq payload) :=
  readLine_of_tokens
    (tokens_seqLine (mnemonic := ['E', 'N', 'C', 'O', 'D', 'E', '.', 'A', 'K', 'N']) (by simp [PlainChar]) (by simp)
      seq payload)
    (by simp [readTokens, readBytes_inputTokens, readOperand_seqWord])

theorem readLine_encodeMsg (k : Config) (seq : Half) (payload : List Byte) :
    readLine k (printLine k (.encodeMsg seq payload)) = some (.encodeMsg seq payload) :=
  readLine_of_tokens
    (tokens_seqLine (mnemonic := ['E', 'N', 'C', 'O', 'D', 'E', '.', 'M', 'S', 'G']) (by simp [PlainChar]) (by simp)
      seq payload)
    (by simp [readTokens, readBytes_inputTokens, readOperand_seqWord])

theorem readLine_encode (k : Config) (ft : Byte) (seq : Half) (payload : List Byte) :
    readLine k (printLine k (.encode ft seq payload)) = some (encodeForm k ft seq payload) := by
  have hline : printLine k (.encode ft seq payload) =
      ['E', 'N', 'C', 'O', 'D', 'E'] ++ ' ' :: (ftWord ft ++ ',' :: ' ' :: (printSeq seq ++ printInput payload)) := by
    simp [printLine, ftWord]
  rw [hline]
  exact readLine_of_tokens (tokens_encodeLine (by simp [PlainChar]) (by simp) ft seq payload)
    (by simp [readTokens, readBytes_inputTokens, readOperand_seqWord, readOperand_ftWord])

end Sys2Proof.Machine

namespace Sys2Proof.Safety

open Sys2Proof.Machine

/-- A printed line is read as the canonical spelling of its instruction. -/
theorem readLine_printLine {k : Config} (hwf : k.wf) {i : Instr} (hi : i.wf k = true) :
    readLine k (printLine k i) = some (i.canonical k) := by
  cases i with
  | crc16 input => exact readLine_crc16 k input
  | crc32 input => exact readLine_crc32 k input
  | encode ft seq payload => exact readLine_encode k ft seq payload
  | decode input => exact readLine_decode k input
  | encodeCmd seq payload => exact readLine_encodeCmd k seq payload
  | encodeAkn seq payload => exact readLine_encodeAkn k seq payload
  | encodeMsg seq payload => exact readLine_encodeMsg k seq payload
  | frameCmd l q h p c => rw [printLine, readLine_decode, decodeForm_ftCmd (of_decide_eq_true hi), Instr.canonical]
  | frameAkn l q h p c => rw [printLine, readLine_decode, decodeForm_ftAkn hwf (of_decide_eq_true hi), Instr.canonical]
  | frameMsg l q h p c => rw [printLine, readLine_decode, decodeForm_ftMsg hwf (of_decide_eq_true hi), Instr.canonical]

/-- Settles O51: `readLine_printLine`, and the number of a command word. -/
theorem assemblerReadsWhatItPrints : Obligations.AssemblerReadsWhatItPrints :=
  ⟨fun _ _ hwf hi => readLine_printLine hwf hi, fun _ ft seq _ => commandWord_toNat 0x02 ft seq,
    fun _ _ =>
      ⟨(by decide : commandWord 0x00 0 0 = 0), (by decide : commandWord 0x01 0 0 = 1),
        (by decide : commandWord 0x03 0 0 = 3)⟩⟩

end Sys2Proof.Safety
end

section
/-! The CRC as a polynomial remainder over GF(2) (40_crc.md R69): a register is the polynomial of its bits, and one
round multiplies it by `X` up to a multiple of the generator. -/

namespace Sys2Proof.Machine

open Polynomial

/-- The polynomial over GF(2) whose coefficients are the bits of `v`. -/
noncomputable def bitPoly {n : Nat} (v : BitVec n) : (ZMod 2)[X] :=
  ∑ i ∈ Finset.range n, if v.getLsbD i then X ^ i else 0

/-- The generator `G(x) = x^w + POLY(x)` (R69). -/
noncomputable def generator {w : Nat} (p : CrcParams w) : (ZMod 2)[X] := X ^ w + bitPoly p.poly

/-- A byte as it enters the register: reflected if `REFIN` (R61). -/
def enteredByte {w : Nat} (p : CrcParams w) (b : Byte) : Byte := if p.refin then reflect b else b

/-- The message polynomial, the bits of the first byte highest (R69). -/
noncomputable def messagePoly {w : Nat} (p : CrcParams w) (data : List Byte) : (ZMod 2)[X] :=
  ∑ k ∈ Finset.range data.length, bitPoly (enteredByte p (data.getD k 0)) * X ^ (8 * (data.length - 1 - k))

/-! ### Bits are coefficients -/

theorem coeff_bitPoly {n : Nat} (v : BitVec n) (i : Nat) : (bitPoly v).coeff i = if v.getLsbD i then 1 else 0 := by
  have hterm : ∀ j, (if v.getLsbD j then (X : (ZMod 2)[X]) ^ j else 0).coeff i =
      if i = j then (if v.getLsbD i then 1 else 0) else 0 := fun j => by
    by_cases hij : i = j
    · subst hij
      cases v.getLsbD i <;> simp
    · cases v.getLsbD j <;> simp [coeff_X_pow, hij]
  rw [bitPoly, finsetSum_coeff, Finset.sum_congr rfl fun j _ => hterm j, Finset.sum_ite_eq]
  by_cases hi : i < n
  · simp [hi]
  · simp [hi, BitVec.getLsbD_of_ge v i (Nat.le_of_not_lt hi)]

/-- The sum of two bits in GF(2). -/
theorem ite_xor (a b : Bool) :
    (if (a ^^ b) then (1 : ZMod 2) else 0) = (if a then 1 else 0) + if b then 1 else 0 := by
  cases a <;> cases b <;> decide

theorem bitPoly_xor {n : Nat} (a b : BitVec n) : bitPoly (a ^^^ b) = bitPoly a + bitPoly b := by
  ext i
  rw [coeff_add, coeff_bitPoly, coeff_bitPoly, coeff_bitPoly, BitVec.getLsbD_xor, ite_xor]

/-- A byte at the top of the register is its polynomial times `X^(w - 8)`. -/
theorem bitPoly_byte_at_top {w : Nat} (hw : 8 ≤ w) (b : Byte) :
    bitPoly (b.setWidth w <<< (w - 8)) = X ^ (w - 8) * bitPoly b := by
  ext i
  rw [coeff_X_pow_mul', coeff_bitPoly, coeff_bitPoly, BitVec.getLsbD_shiftLeft, BitVec.getLsbD_setWidth]
  by_cases hlow : w - 8 ≤ i
  · by_cases hi : i < w
    · simp [hlow, hi, Nat.not_lt.mpr hlow, show i - (w - 8) < w by omega]
    · simp [hlow, hi, BitVec.getLsbD_of_ge b (i - (w - 8)) (by omega)]
  · simp [hlow, Nat.lt_of_not_le hlow]

theorem degree_bitPoly_lt {n : Nat} (v : BitVec n) : (bitPoly v).degree < n := by
  refine (degree_lt_iff_coeff_zero _ _).mpr fun i hi => ?_
  rw [coeff_bitPoly, BitVec.getLsbD_of_ge v i hi]
  rfl

theorem generator_monic {w : Nat} (p : CrcParams w) : (generator p).Monic := monic_X_pow_add (degree_bitPoly_lt p.poly)

theorem degree_generator {w : Nat} (p : CrcParams w) : (generator p).degree = w := by
  rw [generator, degree_add_eq_left_of_degree_lt (by rw [degree_X_pow]; exact degree_bitPoly_lt p.poly), degree_X_pow]

/-! ### The loop, modulo the generator -/

theorem coeff_X_mul_bitPoly {n : Nat} (v : BitVec n) (i : Nat) :
    (X * bitPoly v).coeff i = if (decide (0 < i) && v.getLsbD (i - 1)) then 1 else 0 := by
  cases i with
  | zero => simp
  | succ i => simp [coeff_X_mul, coeff_bitPoly]

theorem coeff_generator {w : Nat} (p : CrcParams w) (i : Nat) :
    (generator p).coeff i = (if i = w then 1 else 0) + if p.poly.getLsbD i then 1 else 0 := by
  rw [generator, coeff_add, coeff_X_pow, coeff_bitPoly]

/-- One round multiplies by `X`, and takes the generator away if a 1 left the register. -/
theorem bitPoly_crcBit {w : Nat} (hw : 0 < w) (p : CrcParams w) (r : BitVec w) :
    bitPoly (crcBit p r) = X * bitPoly r + if r.msb then generator p else 0 := by
  ext i
  have htop : (if r.msb then generator p else 0).coeff i = if r.msb then (generator p).coeff i else 0 := by
    split_ifs <;> simp
  rw [coeff_add, coeff_bitPoly, coeff_X_mul_bitPoly, htop, coeff_generator]
  by_cases hi : i < w
  · rw [crcBit_getLsbD p r hi, ite_xor]
    cases r.msb <;> simp [hi.ne]
  · have hpoly := BitVec.getLsbD_of_ge p.poly i (Nat.le_of_not_lt hi)
    rw [BitVec.getLsbD_of_ge _ i (Nat.le_of_not_lt hi), hpoly]
    by_cases hlast : i = w
    · have hone : (1 : ZMod 2) + 1 = 0 := by decide
      rw [hlast, ← BitVec.msb_eq_getLsbD_last]
      cases r.msb <;> simp [hw, hone]
    · simp [hlast, BitVec.getLsbD_of_ge r (i - 1) (by omega)]

theorem generator_dvd_crcBit_sub {w : Nat} (hw : 0 < w) (p : CrcParams w) (r : BitVec w) :
    generator p ∣ bitPoly (crcBit p r) - X * bitPoly r := by
  rw [bitPoly_crcBit hw, add_sub_cancel_left]
  split_ifs
  · exact dvd_rfl
  · exact dvd_zero _

theorem generator_dvd_iterate_sub {w : Nat} (hw : 0 < w) (p : CrcParams w) (n : Nat) (r : BitVec w) :
    generator p ∣ bitPoly ((crcBit p)^[n] r) - X ^ n * bitPoly r := by
  induction n generalizing r with
  | zero => simp
  | succ n ih =>
    have hsplit : bitPoly ((crcBit p)^[n] (crcBit p r)) - X ^ (n + 1) * bitPoly r =
        (bitPoly ((crcBit p)^[n] (crcBit p r)) - X ^ n * bitPoly (crcBit p r)) +
          X ^ n * (bitPoly (crcBit p r) - X * bitPoly r) := by ring
    rw [Function.iterate_succ_apply, hsplit]
    exact dvd_add (ih _) (Dvd.dvd.mul_left (generator_dvd_crcBit_sub hw p r) _)

/-- One byte shifts the register by 8 and adds itself at the top. -/
theorem generator_dvd_crcByte_sub {w : Nat} (hw : 8 ≤ w) (p : CrcParams w) (r : BitVec w) (b : Byte) :
    generator p ∣ bitPoly (crcByte p r b) - (X ^ 8 * bitPoly r + bitPoly (enteredByte p b) * X ^ w) := by
  have hpow : (X : (ZMod 2)[X]) ^ w = X ^ 8 * X ^ (w - 8) := by rw [← pow_add, Nat.add_sub_cancel' hw]
  have hiter := generator_dvd_iterate_sub (by omega) p 8 (r ^^^ ((enteredByte p b).setWidth w <<< (w - 8)))
  rw [bitPoly_xor, bitPoly_byte_at_top hw] at hiter
  have hsum : X ^ 8 * bitPoly r + bitPoly (enteredByte p b) * X ^ w =
      X ^ 8 * (bitPoly r + X ^ (w - 8) * bitPoly (enteredByte p b)) := by
    rw [hpow]
    ring
  rw [hsum]
  exact hiter

theorem messagePoly_cons {w : Nat} (p : CrcParams w) (b : Byte) (data : List Byte) :
    messagePoly p (b :: data) = messagePoly p data + bitPoly (enteredByte p b) * X ^ (8 * data.length) := by
  rw [messagePoly, messagePoly, List.length_cons, Finset.sum_range_succ', List.getD_cons_zero, Nat.add_sub_cancel,
    Nat.sub_zero]
  refine congrArg (· + _) (Finset.sum_congr rfl fun k _ => ?_)
  rw [List.getD_cons_succ, show data.length - (k + 1) = data.length - 1 - k by omega]

/-- The loop leaves the register with the message at the top, modulo the generator (R69). -/
theorem generator_dvd_crcRun_sub {w : Nat} (hw : 8 ≤ w) (p : CrcParams w) (r : BitVec w) (data : List Byte) :
    generator p ∣ bitPoly (crcRun p r data) -
      (messagePoly p data * X ^ w + bitPoly r * X ^ (8 * data.length)) := by
  induction data generalizing r with
  | nil => simp [messagePoly]
  | cons b data ih =>
    have hsplit : bitPoly (crcRun p (crcByte p r b) data) -
        (messagePoly p (b :: data) * X ^ w + bitPoly r * X ^ (8 * (b :: data).length)) =
        (bitPoly (crcRun p (crcByte p r b) data) -
          (messagePoly p data * X ^ w + bitPoly (crcByte p r b) * X ^ (8 * data.length))) +
        (bitPoly (crcByte p r b) - (X ^ 8 * bitPoly r + bitPoly (enteredByte p b) * X ^ w)) *
          X ^ (8 * data.length) := by
      rw [messagePoly_cons, List.length_cons]
      ring
    rw [crcRun_cons, hsplit]
    exact dvd_add (ih _) (Dvd.dvd.mul_right (generator_dvd_crcByte_sub hw p r b) _)

/-- The register after the loop is the remainder modulo the generator (R69). -/
theorem bitPoly_crcRun {w : Nat} (hw : 8 ≤ w) (p : CrcParams w) (r : BitVec w) (data : List Byte) :
    bitPoly (crcRun p r data) =
      (messagePoly p data * X ^ w + bitPoly r * X ^ (8 * data.length)) %ₘ generator p := by
  rw [← modByMonic_eq_of_dvd_sub (generator_monic p) (generator_dvd_crcRun_sub hw p r data)]
  refine ((modByMonic_eq_self_iff (generator_monic p)).mpr ?_).symm
  rw [degree_generator]
  exact degree_bitPoly_lt _

end Sys2Proof.Machine

namespace Sys2Proof.Safety

open Sys2Proof.Machine

/-- Settles O7: the remainder is the register after the loop, and `crcFinish` is what is left of the algorithm. -/
theorem crcIsPolynomialRemainder : Obligations.CrcIsPolynomialRemainder :=
  fun _ p hw data => ⟨crcRun p p.init data, bitPoly_crcRun hw p p.init data, rfl⟩

end Sys2Proof.Safety
end
